-- ==== Sys2Proof/Word.lean ====
section
/-! DEFINITION. Words and the two plain containers of the model: a pair with one entry per side, and a table of a
fixed number of entries. -/

namespace Sys2Proof

/-- A byte. -/
abbrev Byte := BitVec 8
/-- A 16-bit word of exchange memory or of a port (R81, R189). -/
abbrev Word := BitVec 16
/-- A 32-bit quantity: clocks, episode numbers, sequences. -/
abbrev DWord := BitVec 32
/-- An 8-byte unit of the non-volatile array (R142, R149). -/
abbrev Unit64 := BitVec 64

/-- One more, stopping at the largest value of the width ("saturating", 00_scope, Counters). -/
def satInc {n : Nat} (x : BitVec n) : BitVec n :=
  if x = BitVec.allOnes n then x else x + 1

/-- One of the two controllers together with its port (00_scope, Terms). -/
inductive Side where
  | engine
  | brake
deriving DecidableEq, Repr

/-- The other side. -/
def Side.other : Side → Side
  | .engine => .brake
  | .brake => .engine

/-- One value for each side. -/
structure Sides (α : Type) where
  engine : α
  brake : α
deriving DecidableEq, Repr

/-- The value of one side. -/
def Sides.get {α : Type} (p : Sides α) : Side → α
  | .engine => p.engine
  | .brake => p.brake

/-- The pair with one side's value replaced. -/
def Sides.set {α : Type} (p : Sides α) (x : Side) (v : α) : Sides α :=
  match x with
  | .engine => { p with engine := v }
  | .brake => { p with brake := v }

/-- A pair with the same value on both sides. -/
def Sides.both {α : Type} (v : α) : Sides α := ⟨v, v⟩

/-- A table of exactly `n` entries. -/
structure Table (n : Nat) (α : Type) where
  cells : List α
  size_eq : cells.length = n
deriving DecidableEq, Repr

/-- Entry `i` of a table. -/
def Table.get {n : Nat} {α : Type} (t : Table n α) (i : Fin n) : α :=
  t.cells[i.val]'(by have := t.size_eq; omega)

/-- The table with entry `i` replaced. -/
def Table.set {n : Nat} {α : Type} (t : Table n α) (i : Fin n) (v : α) : Table n α :=
  ⟨t.cells.set i.val v, by simp [t.size_eq]⟩

/-- The table with every entry changed by `f`. -/
def Table.map {n : Nat} {α β : Type} (t : Table n α) (f : α → β) : Table n β :=
  ⟨t.cells.map f, by simp [t.size_eq]⟩

/-- The table with the same value in every entry. -/
def Table.fill (n : Nat) {α : Type} (v : α) : Table n α :=
  ⟨List.replicate n v, by simp⟩

/-- The numbers of the entries of a table, ascending. -/
def indices (n : Nat) : List (Fin n) := List.finRange n

/-- The table whose entry `i` is `f i`. -/
def Table.tabulate {n : Nat} {α : Type} (f : Fin n → α) : Table n α :=
  ⟨(indices n).map f, by simp [indices]⟩

end Sys2Proof
end

