-- ==== Sys2Proof/Syntax.lean ====
section
/-! DEFINITION. The commands of the device: one constructor for each row of spec/opcode_table.json. -/

namespace Sys2Proof

/-- The four chain registers of a port (R189). -/
inductive ChainRegister where
  | inboundAppend
  | freeAppend
  | freeTake
  | returnTake
deriving DecidableEq, Repr

/-- How an access reaches a register. -/
inductive Direction where
  | read
  | write
deriving DecidableEq, Repr

/-- How far the unit writes under way had got when they were cut off (R176, R177): `done` units are wholly written,
and the unit after them is torn; its bits set in `mix` hold the new contents, the others the old ones. Which of these
happens is open, so the command carries it (log 4). -/
structure Cut where
  done : Nat
  mix : Unit64
deriving DecidableEq, Repr

/-- What a port read frame does to the multi-word status fields (R84): it begins, covering `words` words from `start`,
or the side's frame ends (log 10). -/
inductive ReadFrameEdge where
  | begins (start : Word) (words : Nat)
  | ends
deriving DecidableEq, Repr

/-- The commands (spec/opcode_table.json). Operands are those of the rule each row names; a command of the intake unit
has none, since it reads its slip from exchange memory (R105). -/
inductive Instr where
  /-- R99. -/
  | inboundAppend (side : Side) (offset : Word)
  /-- R100. -/
  | freeAppend (side : Side) (offset : Word)
  /-- R101. -/
  | freeTake (side : Side)
  /-- R102. -/
  | returnTake (side : Side)
  /-- R104: a read of an append register or a write of a take register; the direction follows from the register. -/
  | wrongDirectionAccess (side : Side) (register : ChainRegister)
  /-- R109: a write of `value` to *notice*. -/
  | noticeClear (side : Side) (value : Word)
  /-- R109: a write of `value` to *notice mask*. -/
  | noticeMaskWrite (side : Side) (value : Word)
  /-- R90. -/
  | adopt
  /-- R178. `cut` matters when the drain ends at once and a unit write is under way. -/
  | restart (cut : Cut)
  /-- R189: an access to an address with no register on that port. -/
  | unassignedRegisterAccess (side : Side) (address : Word) (direction : Direction)
  /-- R87, R188: words of a write frame that lie in exchange memory, from `address` on; `continued` says that an
  earlier command carried earlier exchange memory words of the same frame (log 11). -/
  | exchangeMemoryWrite (side : Side) (continued : Bool) (address : Word) (data : List Word)
  /-- R84: the end of a port read frame, and the begin that makes an end possible (log 10). -/
  | statusFieldDeferredWrite (side : Side) (edge : ReadFrameEdge)
  /-- R121. -/
  | verdict
  /-- R122. -/
  | context
  /-- R125. -/
  | plan
  /-- R126. -/
  | episodeList
  /-- R68, R127. -/
  | rideOpen
  /-- R71, R128. -/
  | rideClose
  /-- R131, R132. -/
  | archiveRead
  /-- R133, R134. -/
  | releasePinned
  /-- R136, R137. -/
  | archiveWipe
  /-- R116. -/
  | unknownKind
  /-- R55. -/
  | captureTimerExpiry (slot : Fin 8)
  /-- R79. -/
  | silenceTimerExpiry (side : Side)
  /-- R65: one millisecond of elapsed time (log 3). -/
  | rideClockTick
  /-- R149, R160. -/
  | recordWriteGrant
  /-- R150. -/
  | recordCommit
  /-- R151: `flips` gives, unit by unit in writing order, the bits that read back wrong (log 5). -/
  | verifyFailure (flips : List Unit64)
  /-- R162. -/
  | carryWrite
  /-- R162. -/
  | carryCommit
  /-- R162: `flips` as for `verifyFailure`. -/
  | carryVerifyFailure (flips : List Unit64)
  /-- R163, R164: the vacating header has been written (log 33). -/
  | vacate
  /-- R181. -/
  | scanStopUnitWrite
  /-- R169. -/
  | readJobStep
  /-- R175, R176. -/
  | lowEntry (cut : Cut)
  /-- R174. -/
  | supplyRise
  /-- R175, R176. -/
  | endOfSettling
  /-- R178: `unitsDone` units of the write under way are wholly written; the expiry waits for the unit to end. -/
  | drainTimerExpiry (unitsDone : Nat)
  /-- R177. `cleared` is how many bytes a clearing under way had cleared (R95, log 7). -/
  | powerOn (cut : Cut) (cleared : Nat)
  /-- R177: the fall below 2.70 V. -/
  | supplyReset (cut : Cut) (cleared : Nat)
  /-- R177: the input is driven low; `released` says that it is released again within the command. -/
  | lineReset (cut : Cut) (cleared : Nat) (released : Bool)
  /-- R95. -/
  | clearingComplete
  /-- R180 to R186. -/
  | startUpEnd
  /-- R177. -/
  | resetInputReleased
  /-- R177: `fellBelow150` says that the supply fell below 1.50 V meanwhile. -/
  | supplyReaches280V (fellBelow150 : Bool)
deriving DecidableEq, Repr

end Sys2Proof
end

