-- ==== Sys2Proof/Decode.lean ====
section
/-! DEFINITION. What operands spell: the addresses of a port and the bits of a read-back, and the command that a word of
the table spells. No row of spec/opcode_table.json gives bits, so no word spells a command (log 27). -/

namespace Sys2Proof

/-- A byte address as the port takes it: the lowest bit is ignored (R188). -/
def evenAddress (a : Word) : Word := a &&& 0xFFFE

/-- The port of this side has a register at this even address (R189). -/
def hasRegister (x : Side) (a : Word) : Bool :=
  decide (0x8000 ≤ a.toNat) && (decide (a.toNat ≤ 0x800A) || (decide (a = 0x800C) && decide (x = .engine)))

/-- The port of this side has no register at this address, which is 8000h or above (R189). -/
def isUnassigned (x : Side) (a : Word) : Bool :=
  decide (0x8000 ≤ a.toNat) && !hasRegister x (evenAddress a)

/-- At least one unit reads back wrong (R151). -/
def failsToCompare (flips : List Unit64) : Bool :=
  flips.any (fun f => f != 0)

/-- The command a word of `nbits` bits spells by the table's bits: none, since the table gives no row any bits. -/
def decodeTableWord (_nbits _w : Nat) : Option Instr := none

end Sys2Proof
end

