-- ==== Sys2Proof/Config.lean ====
section
/-! DEFINITION. What the part fixes, and the values the spec leaves open that are not operands of a command. -/

namespace Sys2Proof.Config

/-- Bytes of exchange memory (R81). -/
def exchangeBytes : Nat := 0x8000
/-- Bytes of the non-volatile array (R138). -/
def arrayBytes : Nat := 65536
/-- Bytes of one segment (R138). -/
def segmentBytes : Nat := 4096
/-- First offset of the record area of a segment (R138). -/
def recordArea : Nat := 32
/-- Most descriptors in the filing queue (R145). -/
def queuePlaces : Nat := 48
/-- Most descriptors of kinds other than RIDE_SUMMARY and MARKER (R146). -/
def commonPlaces : Nat := 44
/-- The cap on the pinned bytes (R155). -/
def pinCap : Nat := 24576
/-- WORN segments that stop the archive (R154). -/
def wornLimit : Nat := 5
/-- Milliseconds from capture start to expiry (R55). -/
def captureMs : Nat := 2000
/-- Milliseconds of SETTLING (R174). -/
def settleMs : Nat := 20
/-- Milliseconds of the RESTART drain (R178). -/
def drainMs : Nat := 500
/-- Frames the history ring holds (R49). -/
def ringFrames : Nat := 6
/-- One above the largest value of a 32-bit counter: a counter standing here has given its last value (R143). -/
def counterEnd : Nat := 2 ^ 32

/-- FREE VALUE: what the next archive sequence shows when the archive sequence counter has given its last value. The
spec says that such a counter gives no further number (R143) and not what it then shows (log 15). -/
opaque exhaustedSequence : DWord

/-- FREE VALUE: what a next cursor names as the segment sequence counter's value when that counter has given its last
value (R143, R172; log 15). -/
opaque exhaustedSegment : DWord

/-- FREE VALUE: at an archive stop with a write under way, how many of its units are wholly written. R154 says that no
further unit is written and not how far the write had got; the argument counts such stops (log 34). -/
opaque stopUnits : Nat → Nat

/-- FREE VALUE: at the same stop, which bits of the unit after those hold the new contents (log 34). -/
opaque stopMix : Nat → Unit64

end Sys2Proof.Config
end

