-- ==== Sys2Proof/Machine/State.lean ====
section
/-! DEFINITION. The state of the device, one record per block of the block diagram (00_scope), plain data throughout,
and the state after reset. -/

namespace Sys2Proof.Machine

/-- Why the machine stops with a fault. The spec gives no event that stops the device: misuse, verify failures, an
archive stop and every reset go on. So there is no reason, and no meaning faults. -/
inductive Fault : Type
deriving DecidableEq, Repr

/-- Why a command is refused. -/
inductive Refusal where
  /-- Raised by an arm of `exec` for a command that has no meaning yet. Safe: the model stops. -/
  | notModelled (mnemonic : String)
  /-- Raised by a meaning whose command has operands its own row excludes (`Instr.wellFormed` is false): such a
  command is no event of the device (log 23). Safe: the model stops. -/
  | illFormed
deriving DecidableEq, Repr

/-- Memory: address and byte pairs, addresses strictly rising, no byte 0. An unlisted address reads 0. -/
abbrev Memory := List Host.Cell

/-! ## Monitors (01) -/

/-- A monitor id, 0 to 101 (R1). -/
abbrev MonitorId := Fin 102

/-- The class of a monitor (R2). -/
inductive MonitorClass where
  | information
  | drivability
  | emission
  | safety
deriving DecidableEq, Repr

/-- The side a record is about: a controller or the device (R31). -/
inductive Origin where
  | engine
  | brake
  | device
deriving DecidableEq, Repr

/-- The state of a monitor (R6). -/
inductive MonitorState where
  | disabled
  | notRun
  | passed
  | maturing
  | failed
deriving DecidableEq, Repr

/-- A settings record (R2). -/
structure Settings where
  enable : Bool
  cls : MonitorClass
  failStep : Nat
  passStep : Nat
  failLimit : Nat
  passLimit : Nat
  jump : Bool
  suppressor : Option MonitorId
  confirmRides : Nat
  agingRides : Nat
  preFrames : Nat
  postFrames : Nat
deriving DecidableEq, Repr

/-- One entry of the monitor table (R2, R3, R4). -/
structure Monitor where
  adopted : Option Settings
  staged : Option Settings
  state : MonitorState
  counter : Int
  untracked : Bool
  held : BitVec 8
  ran : Bool
  failedThisRide : Bool
  failRides : BitVec 4
  cleanRides : BitVec 8
  confirmed : Bool
deriving DecidableEq, Repr

/-- The qualification unit: the monitor table and its status counters (R1, R8, R9). -/
structure Qualification where
  monitors : Table 102 Monitor
  ignored : Sides Word
  heldVerdicts : Word
deriving DecidableEq, Repr

/-! ## Episodes (02) -/

/-- The state of an open episode (R37). -/
inductive EpisodeState where
  | active
  | healing
deriving DecidableEq, Repr

/-- Why an episode closes (R42). -/
inductive CloseCause where
  | healed
  | evicted
  | rideOpen
  | rideClose
  | restart
deriving DecidableEq, Repr

/-- An entry of the episode table in use (R27). -/
structure Episode where
  number : DWord
  monitor : MonitorId
  cls : MonitorClass
  state : EpisodeState
  ride : Word
  onsetClock : DWord
  lastFailClock : DWord
  occurrences : Word
  suppressed : Word
  worst : Word
  parked : Bool
  slot : Option (Fin 8)
  onsetQueued : Bool
deriving DecidableEq, Repr

/-- The episode unit (R27, R28, R29). The open episode count is counted from the table. -/
structure Episodes where
  table : Table 24 (Option Episode)
  counter : DWord
  untrackedOnsets : Word
deriving DecidableEq, Repr

/-! ## Snapshots (03) -/

/-- A context frame (R48): channel and value pairs in slip order. -/
structure Frame where
  clock : DWord
  side : Side
  items : List (BitVec 4 × Word)
deriving DecidableEq, Repr

/-- The states of a slot that is not FREE (R51). -/
inductive SlotPhase where
  | capturing
  | complete
  | filing
deriving DecidableEq, Repr

/-- How a capture ended (R51). -/
inductive EndCause where
  | complete
  | truncatedRide
  | truncatedTimeout
  | truncatedRestart
deriving DecidableEq, Repr

/-- What a slot that is not FREE holds (R51). `timer` is the remaining time in ms while the capture timer runs. -/
structure Capture where
  phase : SlotPhase
  episode : DWord
  monitor : MonitorId
  cls : MonitorClass
  origin : Origin
  ride : Word
  onsetClock : DWord
  preWanted : Nat
  postWanted : Nat
  pre : List Frame
  post : List Frame
  timer : Option Nat
  endCause : Option EndCause
deriving DecidableEq, Repr

/-- The snapshot unit. A slot that holds nothing is FREE. `order` lists the slots in use in the order in which their
captures began (R54, R56; log 28). -/
structure Snapshots where
  ring : List Frame
  slots : Table 8 (Option Capture)
  order : List (Fin 8)
  misses : Word
deriving DecidableEq, Repr

/-! ## Rides (04) -/

/-- The ride state (R64). -/
inductive RideState where
  | parked
  | riding
deriving DecidableEq, Repr

/-- A silence timer (R77): the remaining ms while it runs, and the count of expiries. Its limit is that of the adopted
layout. -/
structure SilenceTimer where
  remaining : Option Nat
  expiries : BitVec 15
deriving DecidableEq, Repr

/-- The ride unit (R64 to R67, R77). -/
structure Rides where
  state : RideState
  clock : DWord
  number : Word
  odometer : DWord
  silence : Sides SilenceTimer
deriving DecidableEq, Repr

/-! ## Exchange memory (05) -/

/-- A side's slip pool (R89). -/
structure Pool where
  base : Nat
  count : Nat
deriving DecidableEq, Repr

/-- The adopted copy of the layout (R83). -/
structure Layout where
  boundary : Nat
  pool : Sides Pool
  mark : Sides Nat
  limit : Sides Nat
deriving DecidableEq, Repr

/-- The words that the status area shows (R85, R190), in address order from 0080h. -/
structure StatusArea where
  partState : Word
  layoutResult : Word
  resetCause : Word
  tornRecords : Word
  duplicatesResolved : Word
  orphanRides : Word
  rideState : Word
  rideNumber : Word
  rideClock : DWord
  openEpisodes : Word
  untrackedOnsets : Word
  slotsInUse : Word
  snapshotMisses : Word
  queueDepth : Word
  archiveState : Word
  liveSegments : Word
  vacantSegments : Word
  wornSegments : Word
  pinnedBytes : Word
  pinGeneration : DWord
  nextSequence : DWord
  recordsDropped : Word
  retentionOverflows : Word
  carryStalls : Word
  misuseEngine : Word
  misuseBrake : Word
  ignoredEngine : Word
  ignoredBrake : Word
  heldVerdicts : Word
deriving DecidableEq, Repr

/-- The cleared status area (R94). -/
def StatusArea.zero : StatusArea :=
  ⟨0, 0, 0, 0, 0, 0, 0, 0, 0, 0, 0, 0, 0, 0, 0, 0, 0, 0, 0, 0, 0, 0, 0, 0, 0, 0, 0, 0, 0⟩

/-- Exchange memory: the bytes outside the status area, the status area, and the adopted layout copy, whose presence
is the write enforcement of R87 (log 24). -/
structure Exchange where
  cells : Memory
  status : StatusArea
  layout : Option Layout
deriving DecidableEq, Repr

/-! ## Ports, chains and intake (06, 07) -/

/-- One port: the notice flags and enables (R109), the word the last register read returned (log 9), the span of
addresses of a read frame in progress (R84, log 10), and whether the write frame in progress has been counted as
misuse (R88, log 11). -/
structure Port where
  flags : BitVec 6
  mask : BitVec 6
  readData : Word
  readFrame : Option (Word × Nat)
  frameMisused : Bool
deriving DecidableEq, Repr

/-- The holder of a slip (R96). -/
inductive Owner where
  | held
  | free
  | inbound
  | inWork
  | returned
deriving DecidableEq, Repr

/-- One side's part of the chain unit: the ownership table by slip position, and the three chains of slip offsets,
head first (R96, R98). -/
structure Chains where
  owner : List Owner
  free : List Word
  inbound : List Word
  ret : List Word
deriving DecidableEq, Repr

/-- The chain unit, with the misuse counts it keeps (R108). -/
structure ChainUnit where
  sides : Sides Chains
  misuse : Sides Word
deriving DecidableEq, Repr

/-- What became of a record a slip waits for (R129). -/
inductive Fate where
  | committed
  | dropped
  | givenUp
deriving DecidableEq, Repr

/-- The kinds of slip that wait for records (R129). -/
inductive WaitKind where
  | rideClose
  | release
  | wipe
deriving DecidableEq, Repr

/-- A waiting slip and the fates known so far. A RIDE_CLOSE waits for its summary, a RELEASE_PINNED for its marker, an
ARCHIVE_WIPE for both. -/
structure Waiting where
  side : Side
  slip : Word
  kind : WaitKind
  marker : Option Fate
  summary : Option Fate
deriving DecidableEq, Repr

/-- The intake unit (R113, R135) and the slips that wait for records (R129). -/
structure Intake where
  pointer : Side
  wipeWaiting : Bool
  waiting : List Waiting
deriving DecidableEq, Repr

/-! ## The archive (08, 09) -/

/-- The state of a segment (R138). -/
inductive SegmentState where
  | live
  | vacant
  | worn
deriving DecidableEq, Repr

/-- One entry of the segment table (R138). -/
structure Segment where
  state : SegmentState
  sequence : DWord
deriving DecidableEq, Repr

/-- The head: where the next record is written (R138). -/
structure Head where
  segment : Fin 16
  offset : Nat
deriving DecidableEq, Repr

/-- The archive state (R154). -/
inductive ArchiveState where
  | running
  | stopped
deriving DecidableEq, Repr

/-- Marker kinds (R141). -/
inductive MarkerKind where
  | wipe
  | release
deriving DecidableEq, Repr

/-- Record kinds (R140). -/
inductive RecordKind where
  | onset
  | close
  | snapshot
  | summary
  | marker
deriving DecidableEq, Repr

/-- The body of a record as formed (R31, R42, R58, R74, R134). A SNAPSHOT body is a slot, whose frames it does not
copy (R145). -/
inductive Body where
  | onset (clock : DWord) (value : Word) (failLimit : Nat) (untracked parked : Bool) (time : Option DWord)
  | close (cause : CloseCause) (untracked : Bool) (worst : Word) (duration lastFail : DWord)
      (occurrences suppressed : Word)
  | snapshot (slot : Fin 8)
  | summary (ride : Word) (reconstructed wipe restart : Bool) (odometer duration : DWord) (entries : List DWord)
  | marker (kind : MarkerKind) (generation : DWord)
deriving DecidableEq, Repr

/-- A record as a block offers it (R140). -/
structure Record where
  body : Body
  cls : MonitorClass
  ride : Word
  monitor : Option MonitorId
  origin : Origin
  episode : DWord
deriving DecidableEq, Repr

/-- The attempt of a queued record (R145). -/
inductive Attempt where
  | first
  | retry
  | moved
deriving DecidableEq, Repr

/-- A descriptor of the filing queue (R145). -/
structure Descriptor where
  record : Record
  sequence : DWord
  pinned : Bool
  generation : DWord
  waiting : Option (Side × Word)
  attempt : Attempt
deriving DecidableEq, Repr

/-- A preparation that is pending (R161): its target, how far its walk has got, and the offsets of the records whose
carry was given up. -/
structure Preparation where
  target : Fin 16
  position : Nat
  givenUp : List Nat
deriving DecidableEq, Repr

/-- One unit write of the item under way: array address, what the unit held and what is written. -/
structure UnitWrite where
  address : Nat
  old : Unit64
  new : Unit64
deriving DecidableEq, Repr

/-- The item the store arbiter granted last (R166). `steps` is an entry or the stop unit of R181, which have no row for
their end. -/
inductive WorkItem where
  | steps
  | record
  | carry (source : Nat) (retry : Bool)
deriving DecidableEq, Repr

/-- The entry of a segment (R160): the segment, the value of the segment sequence counter that it takes, and what stood
before, the head and the segment's entry of the table. `headerHeld` says that its header has been whole, so that the table
has taken it and the counter has moved on. -/
structure Entry where
  segment : Fin 16
  number : Nat
  left : Option Head
  was : Segment
  headerHeld : Bool
deriving DecidableEq, Repr

/-- The unit writes of that item, in order: the header of a WORN mark where `marks` is 1, then the header and the stop unit
of an entry if one came first or is the item, then the rest. `suspended` says that the store lockout cut them off (R176). -/
structure Work where
  item : WorkItem
  marks : Nat
  entry : Option Entry
  writes : List UnitWrite
  suspended : Bool
deriving DecidableEq, Repr

/-- A read job (R168). -/
structure Job where
  slip : Word
  windowOffset : Nat
  windowLength : Nat
  kinds : Word
  classes : Word
  lowestRide : Word
  sequence : DWord
  offset : Nat
  bytesWritten : Nat
  recordsCopied : Nat
  gap : Bool
  partDone : Bool
deriving DecidableEq, Repr

/-- The archive unit (R138 to R173). A sequence counter is a Nat that ends at `Config.counterEnd`, where it has given
its last value (R143). `entering` is the segment whose entry was cut off behind its header: the table holds it LIVE, and
the rest of the entry is still to come (R160, R176). -/
structure Archive where
  array : Memory
  segments : Table 16 Segment
  head : Option Head
  segmentCounter : Nat
  sequenceCounter : Nat
  state : ArchiveState
  queue : List Descriptor
  pinGeneration : DWord
  pinnedBytes : Nat
  wipeSequence : DWord
  newestSummary : Option DWord
  newestRelease : Option DWord
  newestWipe : Option DWord
  recordsDropped : Word
  retentionOverflows : Word
  carryStalls : Word
  disregarded : List (Fin 16 × Nat)
  stopUnitMissing : Bool
  entering : Option (Fin 16)
  preparation : Option Preparation
  work : Option Work
  jobs : Sides (Option Job)
  readTurn : Side
  storeFails : List Word
deriving DecidableEq, Repr

/-! ## Supply and start-up (10) -/

/-- The state of the supply monitor (R174). -/
inductive SupplyState where
  | normal
  | low
  | settling
deriving DecidableEq, Repr

/-- The supply monitor: its state, the remaining ms of the settle timer, and the dip count (R174, R175). -/
structure Supply where
  state : SupplyState
  settle : Nat
  dips : BitVec 15
deriving DecidableEq, Repr

/-- Where the device stands between a reset and the end of start-up (R177, R179). -/
inductive Phase where
  | held
  | clearing
  | scanning
  | running
deriving DecidableEq, Repr

/-- The part state (R93). -/
inductive PartState where
  | scanning
  | unconfigured
  | ready
  | restarting
deriving DecidableEq, Repr

/-- The kinds of reset (R177). -/
inductive ResetKind where
  | powerOn
  | supply
  | line
  | restart
deriving DecidableEq, Repr

/-- The layout result code (R90, R91). -/
inductive LayoutResult where
  | none
  | ok
  | badBoundary
  | badPool
  | badMark
  | badLimit
  | already
deriving DecidableEq, Repr

/-- The start-up sequencer: the phase, the two inputs that hold the device in reset, the part state, the kind this
start-up counts as (R177, R186), whether a clearing was interrupted (R177), a remembered ADOPT (R90), the layout
result, the scan findings (R85) and the drain timer (R178). -/
structure StartUp where
  phase : Phase
  resetLow : Bool
  supplyHold : Bool
  part : PartState
  cause : ResetKind
  clearingCut : Bool
  adoptRemembered : Bool
  layoutResult : LayoutResult
  tornRecords : Word
  duplicatesResolved : Word
  orphanRides : Word
  drain : Option Nat
deriving DecidableEq, Repr

/-- The state of the device, block by block, the queue of commands waiting, first in, first out, and how many free
values have been drawn (the model's own count, which no reset touches; log 34). -/
structure State where
  pending : List Instr
  ports : Sides Port
  exchange : Exchange
  chains : ChainUnit
  intake : Intake
  qual : Qualification
  episodes : Episodes
  snaps : Snapshots
  rides : Rides
  archive : Archive
  supply : Supply
  startUp : StartUp
  draws : Nat
deriving DecidableEq, Repr

/-! ## Reset values -/

/-- R109; log 9 for the read data. No frame is in progress: that a reset ends the frames of its ports is the model's choice
(R84, R88, R177, R188; logs 10 and 11). -/
def Port.reset : Port :=
  { flags := 0, mask := 0, readData := 0, readFrame := none, frameMisused := false }

/-- R96, R107: no ownership table and no chains. -/
def Chains.reset : Chains := { owner := [], free := [], inbound := [], ret := [] }

/-- R107, R108. -/
def ChainUnit.reset : ChainUnit := { sides := .both .reset, misuse := .both 0 }

/-- R113, R135, R130. -/
def Intake.reset : Intake := { pointer := .engine, wipeWaiting := false, waiting := [] }

/-- The fixed settings common to the internal monitors (R16), with class and frame counts. -/
def Settings.internal (cls : MonitorClass) (pre post : Nat) : Settings :=
  { enable := true, cls := cls, failStep := 1, passStep := 1, failLimit := 1, passLimit := 1, jump := false,
    suppressor := none, confirmRides := 1, agingRides := 3, preFrames := pre, postFrames := post }

/-- The settings of an internal monitor (R16). Host monitors have none (R5). -/
def fixedSettings (m : MonitorId) : Option Settings :=
  if m.val = 96 then some (.internal .drivability 4 2)
  else if m.val = 97 then some (.internal .safety 4 2)
  else if m.val = 98 then some (.internal .information 0 0)
  else if m.val = 99 then some (.internal .information 0 0)
  else if m.val = 100 then some (.internal .information 2 3)
  else if m.val = 101 then some (.internal .information 0 0)
  else none

/-- One monitor after a reset (R5). -/
def Monitor.reset (m : MonitorId) : Monitor :=
  { adopted := fixedSettings m, staged := none, state := if m.val < 96 then .disabled else .notRun, counter := 0,
    untracked := false, held := 0, ran := false, failedThisRide := false, failRides := 0, cleanRides := 0,
    confirmed := false }

/-- R5, R85. -/
def Qualification.reset : Qualification :=
  { monitors := .tabulate Monitor.reset, ignored := .both 0, heldVerdicts := 0 }

/-- R28; the counter is the scan's (R29), 1 until then (log 20). -/
def Episodes.reset : Episodes := { table := .fill 24 none, counter := 1, untrackedOnsets := 0 }

/-- R49, R51, R62. -/
def Snapshots.reset : Snapshots := { ring := [], slots := .fill 8 none, order := [], misses := 0 }

/-- R80; the ride number is the scan's, 0 until then (log 20). -/
def Rides.reset : Rides :=
  { state := .parked, clock := 0, number := 0, odometer := 0, silence := .both ⟨none, 0⟩ }

/-- The archive unit after a reset with this array: empty queue, no jobs, idle arbiter (R145, R166, R168). What the
scan sets holds the values of log 20 until then. -/
def Archive.reset (array : Memory) : Archive :=
  { array := array, segments := .fill 16 ⟨.vacant, 0⟩, head := none, segmentCounter := 1, sequenceCounter := 1,
    state := .running, queue := [], pinGeneration := 0, pinnedBytes := 0, wipeSequence := 0, newestSummary := none,
    newestRelease := none, newestWipe := none, recordsDropped := 0, retentionOverflows := 0, carryStalls := 0,
    disregarded := [], stopUnitMissing := false, entering := none, preparation := none, work := none, jobs := .both none,
    readTurn := .engine, storeFails := [] }

/-- The supply monitor at a POWER_ON or SUPPLY reset (R174, R175). -/
def Supply.reset : Supply := { state := .low, settle := 0, dips := 0 }

/-- The machine when a POWER_ON start-up has begun: the supply has reached 2.80 V and the clearing of exchange memory
is under way (R177, R179). The array has never been written (R138, log 6); log 8 says how commands come to run. -/
def State.reset : State :=
  { pending := []
    ports := .both .reset
    exchange := { cells := [], status := .zero, layout := none }
    chains := .reset
    intake := .reset
    qual := .reset
    episodes := .reset
    snaps := .reset
    rides := .reset
    archive := .reset []
    supply := .reset
    startUp :=
      { phase := .clearing, resetLow := false, supplyHold := false, part := .scanning, cause := .powerOn,
        clearingCut := false, adoptRemembered := false, layoutResult := .none, tornRecords := 0,
        duplicatesResolved := 0, orphanRides := 0, drain := none }
    draws := 0 }

end Sys2Proof.Machine
end

