-- ==== Sys2Proof/Machine/Memory.lean ====
section
/-! DEFINITION. Memory in its one canonical form, the bytes of multi-byte quantities (R187), exchange memory with the
status area in it (R81, R190), and the array's unit writes (R149, R176). -/

namespace Sys2Proof.Machine

/-! ## Memory -/

/-- The canonical form: addresses strictly rising, each at or above `low` and below `size`, and no byte 0. -/
def Memory.wfFrom (size : Nat) : Nat → Memory → Bool
  | _, [] => true
  | low, (k, v) :: rest => decide (low ≤ k) && decide (k < size) && v != 0 && Memory.wfFrom size (k + 1) rest

/-- The canonical form of a memory of `size` bytes. -/
def Memory.wf (size : Nat) (m : Memory) : Bool := Memory.wfFrom size 0 m

/-- The byte at an address; an unlisted address reads 0 (R95 for exchange memory, log 6 for the array). -/
def Memory.read : Memory → Nat → Byte
  | [], _ => 0
  | (k, v) :: rest, a => if a < k then 0 else if a = k then v else Memory.read rest a

/-- The memory with one byte written; writing 0 removes the entry. -/
def Memory.put : Memory → Nat → Byte → Memory
  | [], a, b => if b = 0 then [] else [(a, b)]
  | (k, v) :: rest, a, b =>
    if a < k then (if b = 0 then (k, v) :: rest else (a, b) :: (k, v) :: rest)
    else if a = k then (if b = 0 then rest else (a, b) :: rest)
    else (k, v) :: Memory.put rest a b

/-- A write within a memory of `size` bytes; beyond it nothing is written. -/
def Memory.write (size : Nat) (m : Memory) (a : Nat) (b : Byte) : Memory :=
  if a < size then m.put a b else m

/-- Bytes written from `a` upward. -/
def Memory.writeBytes (size : Nat) : Memory → Nat → List Byte → Memory
  | m, _, [] => m
  | m, a, b :: rest => Memory.writeBytes size (m.write size a b) (a + 1) rest

/-- `n` bytes read from `a` upward. -/
def Memory.readBytes (m : Memory) (a : Nat) : Nat → List Byte
  | 0 => []
  | n + 1 => m.read a :: Memory.readBytes m (a + 1) n

/-- What is left when the bytes below `limit` have been cleared (R95, log 7). -/
def Memory.clearBelow (limit : Nat) : Memory → Memory
  | [] => []
  | (k, v) :: rest => if k < limit then Memory.clearBelow limit rest else (k, v) :: rest

/-! ## Little-endian quantities (R187) -/

/-- The `n` low bytes of `x`, least significant first. -/
def leBytes : Nat → Nat → List Byte
  | 0, _ => []
  | n + 1, x => BitVec.ofNat 8 x :: leBytes n (x / 256)

/-- The number that bytes hold, least significant first. -/
def leNat : List Byte → Nat
  | [] => 0
  | b :: rest => b.toNat + 256 * leNat rest

/-- A word as two bytes. -/
def wordBytes (x : Word) : List Byte := leBytes 2 x.toNat
/-- A 32-bit quantity as four bytes. -/
def dwordBytes (x : DWord) : List Byte := leBytes 4 x.toNat

/-! ## Exchange memory -/

/-- First offset of the status area (R84). -/
def statusBase : Nat := 0x80
/-- First offset beyond the status area (R84). -/
def statusEnd : Nat := 0x100

/-- The offset lies in the status area (R84). -/
def inStatusArea (a : Nat) : Bool := decide (statusBase ≤ a) && decide (a < statusEnd)

/-- The low and the high word of a 32-bit field. -/
def dwordWords (x : DWord) : List Word := [x.setWidth 16, (x >>> 16).setWidth 16]

/-- The words of the status area from 0080h to 00BEh, in order (R190). -/
def StatusArea.words (f : StatusArea) : List Word :=
  [f.partState, f.layoutResult, f.resetCause, f.tornRecords, f.duplicatesResolved, f.orphanRides, f.rideState,
    f.rideNumber] ++ dwordWords f.rideClock ++
  [f.openEpisodes, f.untrackedOnsets, f.slotsInUse, f.snapshotMisses, f.queueDepth, f.archiveState, f.liveSegments,
    f.vacantSegments, f.wornSegments, f.pinnedBytes] ++ dwordWords f.pinGeneration ++ dwordWords f.nextSequence ++
  [f.recordsDropped, f.retentionOverflows, f.carryStalls, f.misuseEngine, f.misuseBrake, f.ignoredEngine,
    f.ignoredBrake, f.heldVerdicts]

/-- The byte of the status area at an offset from 0080h to 00FFh; from 00C0h on it is 0 (R190). -/
def StatusArea.byte (f : StatusArea) (a : Nat) : Byte :=
  let w := f.words.getD ((a - statusBase) / 2) 0
  if a % 2 = 0 then w.setWidth 8 else (w >>> 8).setWidth 8

/-- A 32-bit field whose words below an offset have been cleared; the field lies at `a`. -/
def clearedDword (limit a : Nat) (x : DWord) : DWord :=
  if a + 4 ≤ limit then 0 else if a + 2 ≤ limit then x &&& 0xFFFF0000 else x

/-- A word field that has been cleared when it lies below an offset. -/
def clearedWord (limit a : Nat) (x : Word) : Word := if a + 2 ≤ limit then 0 else x

/-- The status area when the words of exchange memory below `limit` have been cleared (R95, log 7). -/
def StatusArea.clearBelow (limit : Nat) (f : StatusArea) : StatusArea :=
  { partState := clearedWord limit 0x80 f.partState
    layoutResult := clearedWord limit 0x82 f.layoutResult
    resetCause := clearedWord limit 0x84 f.resetCause
    tornRecords := clearedWord limit 0x86 f.tornRecords
    duplicatesResolved := clearedWord limit 0x88 f.duplicatesResolved
    orphanRides := clearedWord limit 0x8A f.orphanRides
    rideState := clearedWord limit 0x8C f.rideState
    rideNumber := clearedWord limit 0x8E f.rideNumber
    rideClock := clearedDword limit 0x90 f.rideClock
    openEpisodes := clearedWord limit 0x94 f.openEpisodes
    untrackedOnsets := clearedWord limit 0x96 f.untrackedOnsets
    slotsInUse := clearedWord limit 0x98 f.slotsInUse
    snapshotMisses := clearedWord limit 0x9A f.snapshotMisses
    queueDepth := clearedWord limit 0x9C f.queueDepth
    archiveState := clearedWord limit 0x9E f.archiveState
    liveSegments := clearedWord limit 0xA0 f.liveSegments
    vacantSegments := clearedWord limit 0xA2 f.vacantSegments
    wornSegments := clearedWord limit 0xA4 f.wornSegments
    pinnedBytes := clearedWord limit 0xA6 f.pinnedBytes
    pinGeneration := clearedDword limit 0xA8 f.pinGeneration
    nextSequence := clearedDword limit 0xAC f.nextSequence
    recordsDropped := clearedWord limit 0xB0 f.recordsDropped
    retentionOverflows := clearedWord limit 0xB2 f.retentionOverflows
    carryStalls := clearedWord limit 0xB4 f.carryStalls
    misuseEngine := clearedWord limit 0xB6 f.misuseEngine
    misuseBrake := clearedWord limit 0xB8 f.misuseBrake
    ignoredEngine := clearedWord limit 0xBA f.ignoredEngine
    ignoredBrake := clearedWord limit 0xBC f.ignoredBrake
    heldVerdicts := clearedWord limit 0xBE f.heldVerdicts }

/-- The byte at an offset of exchange memory. -/
def Exchange.readByte (x : Exchange) (a : Nat) : Byte :=
  if inStatusArea a then x.status.byte a else x.cells.read a

/-- `n` bytes of exchange memory. -/
def Exchange.readBytes (x : Exchange) (a : Nat) : Nat → List Byte
  | 0 => []
  | n + 1 => x.readByte a :: Exchange.readBytes x (a + 1) n

/-- A word of exchange memory (R81). -/
def Exchange.readWord (x : Exchange) (a : Nat) : Word := BitVec.ofNat 16 (leNat (x.readBytes a 2))
/-- A 32-bit quantity of exchange memory. -/
def Exchange.readDword (x : Exchange) (a : Nat) : DWord := BitVec.ofNat 32 (leNat (x.readBytes a 4))

/-- A byte written into exchange memory outside the status area, which `showStatus` alone writes. -/
def Exchange.writeByte (x : Exchange) (a : Nat) (b : Byte) : Exchange :=
  if inStatusArea a then x else { x with cells := x.cells.write Config.exchangeBytes a b }

/-- Bytes written into exchange memory from `a` upward. -/
def Exchange.writeBytes : Exchange → Nat → List Byte → Exchange
  | x, _, [] => x
  | x, a, b :: rest => Exchange.writeBytes (x.writeByte a b) (a + 1) rest

/-- A word written into exchange memory (R81). -/
def Exchange.writeWord (x : Exchange) (a : Nat) (w : Word) : Exchange := x.writeBytes a (wordBytes w)

/-! ## The array -/

/-- The array address of an offset within a segment (R138). -/
def arrayAddress (segment : Fin 16) (offset : Nat) : Nat := Config.segmentBytes * segment.val + offset

/-- The unit that eight bytes make up. -/
def packUnit (bytes : List Byte) : Unit64 := BitVec.ofNat 64 (leNat bytes)
/-- The eight bytes of a unit. -/
def unitBytes (u : Unit64) : List Byte := leBytes 8 u.toNat

/-- The unit at an array address. -/
def readUnit (m : Memory) (a : Nat) : Unit64 := packUnit (m.readBytes a 8)
/-- One unit written into the array. -/
def writeUnit (m : Memory) (a : Nat) (u : Unit64) : Memory := m.writeBytes Config.arrayBytes a (unitBytes u)

/-- A run of bytes cut into units. -/
def unitsFrom (a : Nat) : Nat → List Byte → List (Nat × Unit64)
  | 0, _ => []
  | n + 1, bytes => (a, packUnit (bytes.take 8)) :: unitsFrom (a + 8) n (bytes.drop 8)

/-- Units written in order, with what each held before. -/
def performWrites : Memory → List (Nat × Unit64) → Memory × List UnitWrite
  | m, [] => (m, [])
  | m, (a, u) :: rest =>
    let old := readUnit m a
    let r := performWrites (writeUnit m a u) rest
    (r.1, ⟨a, old, u⟩ :: r.2)

/-- The unit a cut-off write leaves: the new contents where `mix` is set, the old ones elsewhere (R176). -/
def mixUnit (mix old new : Unit64) : Unit64 := (old &&& ~~~mix) ||| (new &&& mix)

/-- The array when the writes were cut off after `done` units: later units hold what they held before, the unit after
the last whole one is torn (R176). -/
def cutWrites (mix : Unit64) : Nat → List UnitWrite → Memory → Memory
  | _, [], m => m
  | 0, w :: rest, m =>
    let undone := rest.foldr (fun x acc => writeUnit acc x.address x.old) m
    writeUnit undone w.address (mixUnit mix w.old w.new)
  | n + 1, _ :: rest, m => cutWrites mix n rest m

/-- The array when writing stopped after `done` whole units, none torn (R178). -/
def stopWrites (done : Nat) (ws : List UnitWrite) (m : Memory) : Memory :=
  (ws.drop done).foldr (fun x acc => writeUnit acc x.address x.old) m

/-- The units in which some bits read back wrong: each holds its new contents with those bits changed (log 5). -/
def misread : List UnitWrite → List Unit64 → Memory → Memory
  | [], _, m => m
  | _ :: _, [], m => m
  | w :: rest, f :: flips, m => misread rest flips (writeUnit m w.address (w.new ^^^ f))

end Sys2Proof.Machine
end

