-- ==== Sys2Proof/Machine/Flags.lean ====
section
/-! DEFINITION. The flags of the device: the notice flags and the notice line (R109 to R112), and the flag words of
records, list entries and status entries. -/

namespace Sys2Proof.Machine

/-- The six notices of a port (R109). -/
inductive Notice where
  | returnReady
  | freeLow
  | onset
  | archiveAlert
  | misuse
  | ready
deriving DecidableEq, Repr

/-- The bit of a notice in *notice* and *notice mask* (R189). -/
def Notice.bit : Notice → BitVec 6
  | .returnReady => 1
  | .freeLow => 2
  | .onset => 4
  | .archiveAlert => 8
  | .misuse => 16
  | .ready => 32

/-- The port with a flag latched, enabled or not (R109). -/
def Port.latch (p : Port) (n : Notice) : Port := { p with flags := p.flags ||| n.bit }

/-- The flag is latched. -/
def Port.isLatched (p : Port) (n : Notice) : Bool := p.flags &&& n.bit != 0

/-- What a read of *notice* returns (R109). -/
def Port.noticeWord (p : Port) : Word := (p.flags &&& p.mask).setWidth 16

/-- What a read of *notice mask* returns (R109). -/
def Port.maskWord (p : Port) : Word := p.mask.setWidth 16

/-- The notice line is asserted, driven low (R109). -/
def Port.lineAsserted (p : Port) : Bool := p.flags &&& p.mask != 0

/-- The port with the flags whose bits are set in a written word cleared (R109). -/
def Port.clear (p : Port) (value : Word) : Port := { p with flags := p.flags &&& ~~~(value.setWidth 6) }

/-- A flag latched on one side's port. -/
def State.latch (s : State) (x : Side) (n : Notice) : State :=
  { s with ports := s.ports.set x ((s.ports.get x).latch n) }

/-- A flag latched on both ports (R112). -/
def State.latchBoth (s : State) (n : Notice) : State := (s.latch .engine n).latch .brake n

/-- Bit `i` of a byte of flags. -/
def bitIf (b : Bool) (i : Nat) : Nat := if b then 2 ^ i else 0

/-- The code of a monitor state in a status entry (R192). -/
def MonitorState.code : MonitorState → Nat
  | .disabled => 0
  | .notRun => 1
  | .passed => 2
  | .maturing => 3
  | .failed => 4

/-- The monitor status entry: four bytes, little-endian (R26, R192). -/
def Monitor.statusEntry (m : Monitor) : DWord :=
  let flags := m.state.code + bitIf m.untracked 3 + bitIf m.staged.isSome 4 + bitIf m.confirmed 5 + bitIf m.ran 6 +
    bitIf m.failedThisRide 7
  BitVec.ofNat 32
    (flags + 0x100 * m.failRides.toNat + 0x10000 * m.cleanRides.toNat + 0x1000000 * m.held.toNat)

/-- Bit `i` of a byte. -/
def byteBit (b : Byte) (i : Nat) : Bool := b.toNat / 2 ^ i % 2 = 1

end Sys2Proof.Machine
end

