-- ==== Sys2Proof/Machine/Operands.lean ====
section
/-! DEFINITION. The operand forms: the layout area, slips by offset, the fields of each slip kind, plan entries, and
the checks on windows and tables (R83, R89, R115 to R125, R131, R190 to R192). -/

namespace Sys2Proof.Machine

/-! ## The layout -/

/-- The layout area read as numbers (R83, R190). -/
def Exchange.readLayout (x : Exchange) : Layout :=
  let w := fun a => (x.readWord a).toNat
  { boundary := w 0x00
    pool := ⟨⟨w 0x02, w 0x04⟩, ⟨w 0x06, w 0x08⟩⟩
    mark := ⟨w 0x0A, w 0x0C⟩
    limit := ⟨w 0x0E, w 0x10⟩ }

/-- Checks 2 and 3 of R91 for a pool between two bounds. -/
def Pool.legal (p : Pool) (low high : Nat) : Bool :=
  decide (4 ≤ p.count) && decide (p.count ≤ 128) && decide (p.base % 64 = 0) && decide (low ≤ p.base) &&
    decide (p.base + 64 * p.count ≤ high)

/-- Check 4 of R91: a mark is 0, or 1 to the pool count. -/
def markLegal (mark : Nat) (p : Pool) : Bool := decide (mark ≤ p.count)

/-- Check 5 of R91: a limit is 0, or 2 to 255. -/
def limitLegal (limit : Nat) : Bool := limit == 0 || (decide (2 ≤ limit) && decide (limit ≤ 255))

/-- The result of validating a layout: the first check that fails gives the code (R91). -/
def Layout.validate (l : Layout) : LayoutResult :=
  if !(decide (l.boundary % 0x100 = 0) && decide (0x1000 ≤ l.boundary) && decide (l.boundary ≤ 0x7000)) then
    .badBoundary
  else if !l.pool.engine.legal 0x100 l.boundary then .badPool
  else if !l.pool.brake.legal l.boundary 0x8000 then .badPool
  else if !(markLegal l.mark.engine l.pool.engine && markLegal l.mark.brake l.pool.brake) then .badMark
  else if !(limitLegal l.limit.engine && limitLegal l.limit.brake) then .badLimit
  else .ok

/-- The byte offset lies in a side's partition (R87). -/
def Layout.inPartition (l : Layout) (x : Side) (a : Nat) : Bool :=
  match x with
  | .engine => decide (0x100 ≤ a) && decide (a < l.boundary)
  | .brake => decide (l.boundary ≤ a) && decide (a < 0x8000)

/-- The words a side may write after adoption: its partition, and the layout area for the engine side (R87). -/
def Layout.mayWrite (l : Layout) (x : Side) (a : Nat) : Bool :=
  l.inPartition x a || (decide (x = .engine) && decide (a < 0x80))

/-! ## Slips -/

/-- The position in its pool of the slip that starts at an offset, if one does (R89). -/
def Pool.slipIndex (p : Pool) (offset : Word) : Option Nat :=
  let a := offset.toNat
  if p.base ≤ a ∧ (a - p.base) % 64 = 0 ∧ (a - p.base) / 64 < p.count then some ((a - p.base) / 64) else none

/-- The offset of slip `k` (R89). -/
def Pool.slipOffset (p : Pool) (k : Nat) : Word := BitVec.ofNat 16 (p.base + 64 * k)

/-- The slips of a pool in ascending offset order. -/
def Pool.slips (p : Pool) : List Word := (List.range p.count).map p.slipOffset

/-- A word of a slip, by its offset in the slip (R191). -/
def State.slipWord (s : State) (slip : Word) (offset : Nat) : Word := s.exchange.readWord (slip.toNat + offset)
/-- A 32-bit field of a slip. -/
def State.slipDword (s : State) (slip : Word) (offset : Nat) : DWord := s.exchange.readDword (slip.toNat + offset)

/-- The slip kinds (R191). -/
inductive SlipKind where
  | verdict
  | context
  | rideOpen
  | rideClose
  | plan
  | episodeList
  | archiveRead
  | releasePinned
  | archiveWipe
  | unknown
deriving DecidableEq, Repr

/-- The kind a code names; every other code is an unknown kind (R116, R191). -/
def slipKind (code : Word) : SlipKind :=
  if code = 1 then .verdict
  else if code = 2 then .context
  else if code = 3 then .rideOpen
  else if code = 4 then .rideClose
  else if code = 5 then .plan
  else if code = 6 then .episodeList
  else if code = 7 then .archiveRead
  else if code = 8 then .releasePinned
  else if code = 9 then .archiveWipe
  else .unknown

/-- Result codes (R191). -/
inductive ResultCode where
  | ok
  | partially
  | badField
  | windowFault
  | refusedSide
  | refusedState
  | busy
  | aborted
  | storeStopped
deriving DecidableEq, Repr

/-- R191. -/
def ResultCode.code : ResultCode → Word
  | .ok => 1
  | .partially => 2
  | .badField => 3
  | .windowFault => 4
  | .refusedSide => 5
  | .refusedState => 6
  | .busy => 7
  | .aborted => 8
  | .storeStopped => 9

/-! ## VERDICT -/

/-- FAIL or PASS. -/
inductive VerdictKind where
  | fail
  | pass
deriving DecidableEq, Repr

/-- One verdict: its kind, measured value and optional firmware time (R7). -/
structure Verdict where
  kind : VerdictKind
  value : Word
  time : Option DWord
deriving DecidableEq, Repr

/-- The owner of a monitor id (R1, R31). -/
def MonitorId.origin (m : MonitorId) : Origin :=
  if m.val < 48 then .engine else if m.val < 96 then .brake else .device

/-- The side as the origin of a record. -/
def sideOrigin : Side → Origin
  | .engine => .engine
  | .brake => .brake

/-- The monitor belongs to the side (R1). -/
def ownsMonitor (x : Side) (m : MonitorId) : Bool := decide (MonitorId.origin m = sideOrigin x)

/-- A checked slip: its request, or the detail of the first check that fails. -/
abbrev Checked (α : Type) := Except Word α

/-- The fields of a VERDICT slip, checked in the order of R120. -/
def State.verdictFields (s : State) (x : Side) (slip : Word) : Checked (MonitorId × Verdict × Nat) :=
  let id := (s.slipWord slip 16).toNat
  let code := s.slipWord slip 18
  let repeats := (s.slipWord slip 22).toNat
  let timed := s.slipWord slip 24
  if h : 101 < id then .error 1
  else if 96 ≤ id then .error 2
  else
    let m : MonitorId := ⟨id, by omega⟩
    if !ownsMonitor x m then .error 3
    else if ¬(code = 1 ∨ code = 2) then .error 4
    else if repeats < 1 ∨ 8 < repeats then .error 5
    else if ¬(timed = 0 ∨ timed = 1) then .error 6
    else
      .ok (m,
        { kind := if code = 1 then .fail else .pass
          value := s.slipWord slip 20
          time := if timed = 1 then some (s.slipDword slip 26) else none },
        repeats)

/-! ## CONTEXT -/

/-- The channel words and values of the first `n` item places (R191). -/
def State.contextItems (s : State) (slip : Word) (n : Nat) : List (Word × Word) :=
  (List.range n).map (fun i => (s.slipWord slip (18 + 4 * i), s.slipWord slip (20 + 4 * i)))

/-- The frame of a CONTEXT slip, checked by R122 and stamped with the clock and the side (R48). -/
def State.contextFrame (s : State) (x : Side) (slip : Word) : Checked Frame :=
  let count := (s.slipWord slip 16).toNat
  if count < 1 ∨ 6 < count then .error 1
  else
    let items := s.contextItems slip count
    if items.all (fun i => decide (i.1.toNat ≤ 15)) then
      .ok { clock := s.rides.clock, side := x, items := items.map (fun i => (i.1.setWidth 4, i.2)) }
    else .error 2

/-! ## Windows and plan tables -/

/-- No byte of a range lies in a pool. -/
def clearOfPool (p : Pool) (offset length : Nat) : Bool :=
  decide (offset + length ≤ p.base) || decide (p.base + 64 * p.count ≤ offset)

/-- Checks 1, 3, 4 and 5 of R123 and R124 on a range of the side's partition. -/
def Layout.checkRange (l : Layout) (x : Side) (offset length : Nat) (lengthLegal : Bool) : Checked Unit :=
  if offset % 2 ≠ 0 then .error 1
  else if !lengthLegal then .error 2
  else if !l.inPartition x offset then .error 3
  else if !l.inPartition x (offset + length - 1) then .error 4
  else if !clearOfPool (l.pool.get x) offset length then .error 5
  else .ok ()

/-- R123. -/
def Layout.checkWindow (l : Layout) (x : Side) (offset length : Nat) : Checked Unit :=
  l.checkRange x offset length (decide (length % 2 = 0) && decide (64 ≤ length) && decide (length ≤ 4096))

/-- R124. -/
def Layout.checkTable (l : Layout) (x : Side) (offset count : Nat) : Checked Unit :=
  l.checkRange x offset (16 * count) true

/-! ## PLAN entries -/

/-- A plan table entry as its bytes give it (R192). -/
structure PlanEntry where
  monitor : Nat
  enable : Nat
  cls : Nat
  failStep : Nat
  passStep : Nat
  failLimit : Nat
  passLimit : Nat
  jump : Nat
  suppressor : Nat
  confirmRides : Nat
  agingRides : Nat
  preFrames : Nat
  postFrames : Nat
deriving DecidableEq, Repr

/-- The entry at an offset of exchange memory (R192). -/
def Exchange.planEntry (x : Exchange) (a : Nat) : PlanEntry :=
  let b := fun i => (x.readByte (a + i)).toNat
  { monitor := b 0, enable := b 1, cls := b 2, failStep := b 3, passStep := b 4, failLimit := b 5, passLimit := b 6,
    jump := b 7, suppressor := b 8, confirmRides := b 9, agingRides := b 10, preFrames := b 11, postFrames := b 12 }

/-- The entries of a plan table in table order (R125). -/
def Exchange.planTable (x : Exchange) (a count : Nat) : List PlanEntry :=
  (List.range count).map (fun i => x.planEntry (a + 16 * i))

/-- The class a code names (R187). -/
def classOfCode (n : Nat) : MonitorClass :=
  if n = 0 then .information else if n = 1 then .drivability else if n = 2 then .emission else .safety

/-- The code, and the rank, of a class (R38, R187). -/
def MonitorClass.rank : MonitorClass → Nat
  | .information => 0
  | .drivability => 1
  | .emission => 2
  | .safety => 3

/-- A number lies in a range, ends included. -/
def within (low high n : Nat) : Bool := decide (low ≤ n) && decide (n ≤ high)

/-- The monitor and the settings of an entry that passes R21, from this side; none when it is refused. -/
def PlanEntry.settings (e : PlanEntry) (x : Side) : Option (MonitorId × Settings) :=
  if h : e.monitor < 102 then
    let m : MonitorId := ⟨e.monitor, h⟩
    let ranges := within 0 1 e.enable && within 0 1 e.jump && within 0 3 e.cls && within 1 64 e.failStep &&
      within 1 64 e.passStep && within 1 64 e.failLimit && within 1 64 e.passLimit && within 1 3 e.confirmRides &&
      within 1 40 e.agingRides && within 0 4 e.preFrames && within 0 7 e.postFrames
    let build := fun sup : Option MonitorId =>
      some (m,
        { enable := e.enable == 1, cls := classOfCode e.cls, failStep := e.failStep, passStep := e.passStep,
          failLimit := e.failLimit, passLimit := e.passLimit, jump := e.jump == 1, suppressor := sup,
          confirmRides := e.confirmRides, agingRides := e.agingRides, preFrames := e.preFrames,
          postFrames := e.postFrames : Settings })
    if ownsMonitor x m && ranges then
      if e.suppressor = 0xFF then build none
      else if hs : e.suppressor < 102 then build (some ⟨e.suppressor, hs⟩)
      else none
    else none
  else none

/-! ## ARCHIVE_READ -/

/-- The request fields of an ARCHIVE_READ slip (R131, R191). -/
structure ReadRequest where
  windowOffset : Nat
  windowLength : Nat
  sequence : DWord
  offset : Nat
  kinds : Word
  classes : Word
  lowestRide : Word
deriving DecidableEq, Repr

/-- The fields as the slip holds them. -/
def State.readRequest (s : State) (slip : Word) : ReadRequest :=
  { windowOffset := (s.slipWord slip 16).toNat
    windowLength := (s.slipWord slip 18).toNat
    sequence := s.slipDword slip 20
    offset := (s.slipWord slip 24).toNat
    kinds := s.slipWord slip 26
    classes := s.slipWord slip 28
    lowestRide := s.slipWord slip 30 }

/-- The detail of the first field check that fails, if one does (R131). -/
def ReadRequest.fault (r : ReadRequest) : Option Word :=
  if r.kinds = 0 ∨ 32 ≤ r.kinds.toNat then some 1
  else if r.classes = 0 ∨ 16 ≤ r.classes.toNat then some 2
  else if r.sequence ≠ 0 ∧ ¬(r.offset % 8 = 0 ∧ 32 ≤ r.offset ∧ r.offset ≤ 4088) then some 3
  else none

end Sys2Proof.Machine
end

