-- ==== Sys2Proof/Machine/Records.lean ====
section
/-! DEFINITION. The formats of the array: records as bytes, commit words, stop units and segment headers; reading them
back, and the walk of a segment (R138 to R142, R193). -/

namespace Sys2Proof.Machine

/-! ## Codes (R193) -/

/-- The code of a record's side. -/
def Origin.code : Origin → Nat
  | .engine => 1
  | .brake => 2
  | .device => 3

/-- The code of the side of a context frame (R192). -/
def sideCode : Side → Nat
  | .engine => 1
  | .brake => 2

/-- The code of a record kind. -/
def RecordKind.code : RecordKind → Nat
  | .onset => 1
  | .close => 2
  | .snapshot => 3
  | .summary => 4
  | .marker => 5

/-- The kind a code names, if it names one. -/
def recordKindOf (b : Byte) : Option RecordKind :=
  if b = 1 then some .onset
  else if b = 2 then some .close
  else if b = 3 then some .snapshot
  else if b = 4 then some .summary
  else if b = 5 then some .marker
  else none

/-- The code of a close cause. -/
def CloseCause.code : CloseCause → Nat
  | .healed => 1
  | .evicted => 2
  | .rideOpen => 3
  | .rideClose => 4
  | .restart => 5

/-- The code of an end cause. -/
def EndCause.code : EndCause → Nat
  | .complete => 1
  | .truncatedRide => 2
  | .truncatedTimeout => 3
  | .truncatedRestart => 4

/-- The code of a marker kind. -/
def MarkerKind.code : MarkerKind → Nat
  | .wipe => 1
  | .release => 2

/-- The kind of a body. -/
def Body.kind : Body → RecordKind
  | .onset .. => .onset
  | .close .. => .close
  | .snapshot _ => .snapshot
  | .summary .. => .summary
  | .marker .. => .marker

/-! ## Records as bytes -/

/-- One item place of a frame. -/
def itemBytes (i : BitVec 4 × Word) : List Byte := i.1.setWidth 8 :: wordBytes i.2

/-- A context frame in a SNAPSHOT record: 24 bytes, places beyond the count 0 (R48, R192). -/
def Frame.bytes (f : Frame) : List Byte :=
  dwordBytes f.clock ++ [BitVec.ofNat 8 (sideCode f.side), BitVec.ofNat 8 f.items.length] ++
    f.items.flatMap itemBytes ++ List.replicate (18 - 3 * f.items.length) 0

/-- The frames of a capture in the order of R58. -/
def Capture.frames (c : Capture) : List Frame := c.pre ++ c.post

/-- The end cause code of a capture. -/
def Capture.endCode (c : Capture) : Nat :=
  match c.endCause with
  | some e => e.code
  | none => 0

/-- The body of a SNAPSHOT record, from the slot (R58, R193). A slot that is FREE gives the body without frames. -/
def snapshotBytes (slot : Option Capture) : List Byte :=
  match slot with
  | some c =>
    leBytes 1 c.pre.length ++ leBytes 1 c.post.length ++ leBytes 1 c.endCode ++ List.replicate 5 0 ++
      c.frames.flatMap Frame.bytes
  | none => List.replicate 8 0

/-- The bytes of a body (R193). -/
def Body.bytes (slots : Table 8 (Option Capture)) : Body → List Byte
  | .onset clock value limit untracked parked time =>
    dwordBytes clock ++ wordBytes value ++ leBytes 1 limit ++
      leBytes 1 (bitIf untracked 0 + bitIf parked 1 + bitIf time.isSome 2) ++ dwordBytes (time.getD 0) ++
      List.replicate 4 0
  | .close cause untracked worst duration lastFail occurrences suppressed =>
    leBytes 1 cause.code ++ leBytes 1 (bitIf untracked 0) ++ wordBytes worst ++ dwordBytes duration ++
      dwordBytes lastFail ++ wordBytes occurrences ++ wordBytes suppressed
  | .snapshot slot => snapshotBytes (slots.get slot)
  | .summary ride reconstructed wipe restart odometer duration entries =>
    wordBytes ride ++ leBytes 2 (bitIf reconstructed 0 + bitIf wipe 1 + bitIf restart 2) ++ dwordBytes odometer ++
      dwordBytes duration ++ List.replicate 4 0 ++ entries.flatMap dwordBytes
  | .marker kind generation => leBytes 1 kind.code ++ List.replicate 3 0 ++ dwordBytes generation

/-- The length of a record (R141). -/
def Body.length (slots : Table 8 (Option Capture)) : Body → Nat
  | .onset .. => 48
  | .close .. => 48
  | .snapshot slot =>
    match slots.get slot with
    | some c => 40 + 24 * (c.pre.length + c.post.length)
    | none => 40
  | .summary .. => 456
  | .marker .. => 40

/-- The length of the record a descriptor stands for. -/
def Descriptor.length (d : Descriptor) (slots : Table 8 (Option Capture)) : Nat := d.record.body.length slots

/-- The first six bytes of every commit word (R193). -/
def commitPattern : List Byte := [0x5A, 0xC3, 0x3C, 0xA5, 0x96, 0x69]

/-- The commit word of a sequence (R142). -/
def commitBytes (sequence : DWord) : List Byte := commitPattern ++ leBytes 2 sequence.toNat

/-- The 24-byte record header of a queued record, carried flag clear (R140, R193). -/
def Descriptor.headerBytes (d : Descriptor) (slots : Table 8 (Option Capture)) : List Byte :=
  leBytes 1 d.record.body.kind.code ++ leBytes 1 (bitIf d.pinned 0) ++ leBytes 2 (d.length slots) ++
    dwordBytes d.generation ++ dwordBytes d.sequence ++ dwordBytes d.record.episode ++ wordBytes d.record.ride ++
    leBytes 1 (match d.record.monitor with | some m => m.val | none => 0xFF) ++ leBytes 1 d.record.cls.rank ++
    leBytes 1 d.record.origin.code ++ List.replicate 3 0

/-- The bytes of a queued record: header, body, commit word (R140). -/
def Descriptor.bytes (d : Descriptor) (slots : Table 8 (Option Capture)) : List Byte :=
  d.headerBytes slots ++ d.record.body.bytes slots ++ commitBytes d.sequence

/-- The unit writes of a record whose bytes are given, at a position of a segment: the stop unit past its end unless
it ends at the segment end, then its units, the commit word last (R149). -/
def recordWrites (segment : Fin 16) (position : Nat) (bytes : List Byte) : List (Nat × Unit64) :=
  let stop := if position + bytes.length < Config.segmentBytes then
    [(arrayAddress segment (position + bytes.length), (0 : Unit64))] else []
  stop ++ unitsFrom (arrayAddress segment position) (bytes.length / 8) bytes

/-! ## Segment headers -/

/-- The state code of a segment header (R193). -/
def SegmentState.code : SegmentState → Nat
  | .live => 0x7E31
  | .vacant => 0x7E52
  | .worn => 0x7E94

/-- The header unit of a segment (R193). -/
def headerUnit (segment : Fin 16) (state : SegmentState) (sequence : DWord) : Nat × Unit64 :=
  (arrayAddress segment 0, packUnit (leBytes 4 state.code ++ dwordBytes sequence))

/-- The stop unit at an offset of a segment (R142). -/
def stopUnit (segment : Fin 16) (offset : Nat) : Nat × Unit64 := (arrayAddress segment offset, 0)

/-- A segment as its header gives it; no state code is VACANT with sequence 0 (R138, R180). -/
def readHeader (m : Memory) (segment : Fin 16) : Segment :=
  let a := arrayAddress segment 0
  let code := leNat (m.readBytes a 2)
  let sequence := BitVec.ofNat 32 (leNat (m.readBytes (a + 4) 4))
  if code = SegmentState.live.code then ⟨.live, sequence⟩
  else if code = SegmentState.vacant.code then ⟨.vacant, sequence⟩
  else if code = SegmentState.worn.code then ⟨.worn, sequence⟩
  else ⟨.vacant, 0⟩

/-! ## Records read back -/

/-- A committed record as it lies in the array: where, and the header fields that the device reads. -/
structure Stored where
  segment : Fin 16
  offset : Nat
  kind : RecordKind
  length : Nat
  pinned : Bool
  carried : Bool
  generation : DWord
  sequence : DWord
  episode : DWord
  ride : Word
  monitor : Nat
  cls : Nat
deriving DecidableEq, Repr

/-- The length is one that R141 allows for the kind. -/
def lengthAllowed (kind : RecordKind) (length : Nat) : Bool :=
  match kind with
  | .onset => length == 48
  | .close => length == 48
  | .snapshot => decide (40 ≤ length) && decide (length ≤ 304) && decide ((length - 40) % 24 = 0)
  | .summary => length == 456
  | .marker => length == 40

/-- The committed record at a position, if one lies there (R142). -/
def recordAt (m : Memory) (segment : Fin 16) (offset : Nat) : Option Stored :=
  let a := arrayAddress segment offset
  match recordKindOf (m.read a) with
  | none => none
  | some kind =>
    let length := leNat (m.readBytes (a + 2) 2)
    let sequence := BitVec.ofNat 32 (leNat (m.readBytes (a + 8) 4))
    if lengthAllowed kind length && decide (offset + length ≤ Config.segmentBytes) &&
        decide (m.readBytes (a + length - 8) 8 = commitBytes sequence) then
      some
        { segment := segment, offset := offset, kind := kind, length := length
          pinned := byteBit (m.read (a + 1)) 0
          carried := byteBit (m.read (a + 1)) 1
          generation := BitVec.ofNat 32 (leNat (m.readBytes (a + 4) 4))
          sequence := sequence
          episode := BitVec.ofNat 32 (leNat (m.readBytes (a + 12) 4))
          ride := BitVec.ofNat 16 (leNat (m.readBytes (a + 16) 2))
          monitor := (m.read (a + 18)).toNat
          cls := (m.read (a + 19)).toNat }
    else none

/-- The bytes of a stored record. -/
def Stored.bytes (r : Stored) (m : Memory) : List Byte := m.readBytes (arrayAddress r.segment r.offset) r.length

/-- The bytes of a carried copy: the original's, with the carried flag set (R162). -/
def Stored.copyBytes (r : Stored) (m : Memory) : List Byte :=
  match r.bytes m with
  | kind :: flags :: rest => kind :: (flags ||| 2) :: rest
  | short => short

/-- The parked flag of a stored ONSET (R193). -/
def Stored.parked (r : Stored) (m : Memory) : Bool := byteBit (m.read (arrayAddress r.segment r.offset + 31)) 1

/-- The stored record is a MARKER of this kind (R193). -/
def Stored.isMarker (r : Stored) (m : Memory) (k : MarkerKind) : Bool :=
  decide (r.kind = .marker) && (m.read (arrayAddress r.segment r.offset + 24)).toNat == k.code

/-- The pin generation in the body of a stored MARKER (R193). -/
def Stored.markerGeneration (r : Stored) (m : Memory) : DWord :=
  BitVec.ofNat 32 (leNat (m.readBytes (arrayAddress r.segment r.offset + 28) 4))

/-- The status entry of a monitor in a stored RIDE_SUMMARY (R193). -/
def Stored.statusEntry (r : Stored) (m : Memory) (id : MonitorId) : List Byte :=
  m.readBytes (arrayAddress r.segment r.offset + 40 + 4 * id.val) 4

/-! ## The walk of a segment -/

/-- What ends a walk (R142). -/
inductive WalkEnd where
  | stopUnit
  | segmentEnd
  | uncommitted
deriving DecidableEq, Repr

/-- The committed records found, the offset at which the walk ended, and what ended it. -/
structure Walk where
  records : List Stored
  endOffset : Nat
  ended : WalkEnd
deriving DecidableEq, Repr

/-- The walk from an offset, record by record; no segment holds more records than `fuel` below (R142). -/
def walkFrom (m : Memory) (segment : Fin 16) : Nat → Nat → Walk
  | 0, offset => ⟨[], offset, .segmentEnd⟩
  | fuel + 1, offset =>
    if Config.segmentBytes ≤ offset then ⟨[], offset, .segmentEnd⟩
    else
      match recordAt m segment offset with
      | some r =>
        let rest := walkFrom m segment fuel (offset + r.length)
        { rest with records := r :: rest.records }
      | none =>
        if m.readBytes (arrayAddress segment offset) 8 = List.replicate 8 0 then ⟨[], offset, .stopUnit⟩
        else ⟨[], offset, .uncommitted⟩

/-- The walk of a segment from offset 32 (R142). A record takes 40 bytes or more, so 102 steps reach the end. -/
def walkSegment (m : Memory) (segment : Fin 16) : Walk := walkFrom m segment 104 Config.recordArea

end Sys2Proof.Machine
end

