-- ==== Sys2Proof/WellFormed.lean ====
section
/-! DEFINITION. Which commands have operands that their row admits. A command that fails contradicts its own row (a
verify failure in which every unit compares, an unassigned access to an assigned register), so no event of the device
is such a command (log 23). -/

namespace Sys2Proof

/-- The operands are ones the command's row admits. -/
def Instr.wellFormed : Instr → Bool
  | .unassignedRegisterAccess x a _ => isUnassigned x a
  | .exchangeMemoryWrite _ _ a data => !data.isEmpty && decide ((evenAddress a).toNat + 2 * data.length ≤ 0x8000)
  | .statusFieldDeferredWrite _ (.begins _ words) => decide (1 ≤ words)
  | .verifyFailure flips => failsToCompare flips
  | .carryVerifyFailure flips => failsToCompare flips
  | .inboundAppend _ _ | .freeAppend _ _ | .freeTake _ | .returnTake _ | .wrongDirectionAccess _ _
  | .noticeClear _ _ | .noticeMaskWrite _ _ | .adopt | .restart _ | .statusFieldDeferredWrite _ .ends
  | .verdict | .context | .plan | .episodeList | .rideOpen | .rideClose | .archiveRead | .releasePinned
  | .archiveWipe | .unknownKind | .captureTimerExpiry _ | .silenceTimerExpiry _ | .rideClockTick
  | .recordWriteGrant | .recordCommit | .carryWrite | .carryCommit | .vacate | .scanStopUnitWrite | .readJobStep
  | .lowEntry _ | .supplyRise | .endOfSettling | .drainTimerExpiry _ | .clearingComplete | .startUpEnd
  | .powerOn _ _ | .supplyReset _ _ | .lineReset _ _ _ | .resetInputReleased | .supplyReaches280V _ => true

end Sys2Proof
end

