-- ==== Sys2Proof/Machine/Ops.lean ====
section
/-! DEFINITION. The named operations that several commands share: the status area (R84, R85), the ownership of slips
(R96 to R106), answers and completions (R106, R115), waiting slips (R129), ports, and the reset of the device (R177). -/

namespace Sys2Proof.Machine

/-! ## Counts and conditions -/

/-- The part takes slips and applies verdicts (R93). -/
def State.isReady (s : State) : Bool := decide (s.startUp.part = .ready)

/-- The ride state is RIDING (R64). -/
def State.isRiding (s : State) : Bool := decide (s.rides.state = .riding)

/-- The store lockout is in force: no unit is written in LOW or SETTLING (R176). -/
def State.locked (s : State) : Bool := decide (s.supply.state ≠ .normal)

/-- Something holds the device in reset: start-up waits, and nothing else does (R174, R177; log 12). -/
def State.isHeld (s : State) : Bool := decide (s.startUp.phase = .held)

/-- The segment table as the counts see it: a segment whose entry was cut off behind its header still counts as VACANT,
since the counts move behind the stop unit (R160). -/
def Archive.counted (a : Archive) : Table 16 Segment :=
  match a.entering with
  | none => a.segments
  | some i => a.segments.set i ⟨.vacant, (a.segments.get i).sequence⟩

/-- Segments in a state (R138). -/
def Archive.count (a : Archive) (st : SegmentState) : Nat :=
  (a.counted.cells.filter (fun g => g.state == st)).length

/-- The open episodes (R27). -/
def Episodes.openList (e : Episodes) : List Episode := e.table.cells.filterMap id

/-- The open episode count (R28). -/
def Episodes.openCount (e : Episodes) : Nat := e.openList.length

/-- The slots that are not FREE (R62). -/
def Snapshots.inUse (p : Snapshots) : Nat := (p.slots.cells.filterMap id).length

/-- What a 32-bit field shows of a counter; one that has given its last value shows the open value `last` (log 15). -/
def counterWord (last : DWord) (n : Nat) : DWord := if n < Config.counterEnd then BitVec.ofNat 32 n else last

/-! ## The status area -/

/-- R190. -/
def PartState.code : PartState → Word
  | .scanning => 1
  | .unconfigured => 2
  | .ready => 3
  | .restarting => 4

/-- R190. -/
def ResetKind.code : ResetKind → Word
  | .powerOn => 1
  | .supply => 2
  | .line => 3
  | .restart => 4

/-- R190. -/
def LayoutResult.code : LayoutResult → Word
  | .none => 0
  | .ok => 1
  | .badBoundary => 2
  | .badPool => 3
  | .badMark => 4
  | .badLimit => 5
  | .already => 6

/-- R190. -/
def RideState.code : RideState → Word
  | .parked => 0
  | .riding => 1

/-- R190. -/
def ArchiveState.code : ArchiveState → Word
  | .running => 0
  | .stopped => 1

/-- A frame of `words` words from an even address covers the word at an even address; behind FFFEh it goes on at 0000h
(R188). -/
def frameCovers (start : Word) (words a : Nat) : Bool := decide ((a + 0x10000 - start.toNat) % 0x10000 < 2 * words)

/-- A read frame of the port covers both words of the 32-bit field at an offset, in whichever order (R84). -/
def Port.holdsOff (p : Port) (offset : Nat) : Bool :=
  match p.readFrame with
  | none => false
  | some (start, words) => frameCovers start words offset && frameCovers start words (offset + 2)

/-- The rewrite of the 32-bit field at an offset is held off (R84). -/
def State.holdsOff (s : State) (offset : Nat) : Bool :=
  s.ports.engine.holdsOff offset || s.ports.brake.holdsOff offset

/-- The status area as its owners' values give it, a held-off field keeping what it shows (R84, R85). -/
def State.currentStatus (s : State) : StatusArea :=
  let old := s.exchange.status
  { partState := s.startUp.part.code
    layoutResult := s.startUp.layoutResult.code
    resetCause := s.startUp.cause.code
    tornRecords := s.startUp.tornRecords
    duplicatesResolved := s.startUp.duplicatesResolved
    orphanRides := s.startUp.orphanRides
    rideState := s.rides.state.code
    rideNumber := s.rides.number
    rideClock := if s.holdsOff 0x90 then old.rideClock else s.rides.clock
    openEpisodes := BitVec.ofNat 16 s.episodes.openCount
    untrackedOnsets := s.episodes.untrackedOnsets
    slotsInUse := BitVec.ofNat 16 s.snaps.inUse
    snapshotMisses := s.snaps.misses
    queueDepth := BitVec.ofNat 16 s.archive.queue.length
    archiveState := s.archive.state.code
    liveSegments := BitVec.ofNat 16 (s.archive.count .live)
    vacantSegments := BitVec.ofNat 16 (s.archive.count .vacant)
    wornSegments := BitVec.ofNat 16 (s.archive.count .worn)
    pinnedBytes := BitVec.ofNat 16 s.archive.pinnedBytes
    pinGeneration := if s.holdsOff 0xA8 then old.pinGeneration else s.archive.pinGeneration
    nextSequence := if s.holdsOff 0xAC then old.nextSequence else counterWord Config.exhaustedSequence s.archive.sequenceCounter
    recordsDropped := s.archive.recordsDropped
    retentionOverflows := s.archive.retentionOverflows
    carryStalls := s.archive.carryStalls
    misuseEngine := s.chains.misuse.engine
    misuseBrake := s.chains.misuse.brake
    ignoredEngine := s.qual.ignored.engine
    ignoredBrake := s.qual.ignored.brake
    heldVerdicts := s.qual.heldVerdicts }

/-- Every block writes the new value of each field it owns that has changed. Until start-up ends the fields are left
as they are (R84, R93; log 14). -/
def State.showStatus (s : State) : State :=
  if s.startUp.phase = .running then { s with exchange := { s.exchange with status := s.currentStatus } } else s

/-! ## Ports -/

/-- The word a register read returns, shifted out on the side's port (log 9). -/
def State.driveOut (s : State) (x : Side) (w : Word) : State :=
  { s with ports := s.ports.set x { s.ports.get x with readData := w } }

/-- What a read of one word from a port returns when it changes nothing: exchange memory (R81, R95), *notice*, *notice
mask* and *control* (R109, R189); 0 elsewhere. Exchange memory reads 0 while the clearing runs, and is read in every
other moment, the hold of a reset among them. The reads that change something are commands. -/
def State.observe (s : State) (x : Side) (address : Word) : Word :=
  let a := (evenAddress address).toNat
  if a < 0x8000 then (if s.startUp.phase = .clearing then 0 else s.exchange.readWord a)
  else if a = 0x8008 then (s.ports.get x).noticeWord
  else if a = 0x800A then (s.ports.get x).maskWord
  else 0

/-! ## Slips and chains -/

/-- One side's chains. -/
def State.chainsOf (s : State) (x : Side) : Chains := s.chains.sides.get x

/-- One side's chains replaced. -/
def State.withChains (s : State) (x : Side) (c : Chains) : State :=
  { s with chains := { s.chains with sides := s.chains.sides.set x c } }

/-- The position of a slip in its side's pool (R89); no pool exists before adoption. -/
def State.slipIndex (s : State) (x : Side) (slip : Word) : Option Nat :=
  match s.exchange.layout with
  | some l => (l.pool.get x).slipIndex slip
  | none => none

/-- The owner-state of the slip that starts at an offset of a side's pool (R96). -/
def State.ownerOf (s : State) (x : Side) (slip : Word) : Option Owner :=
  match s.slipIndex x slip with
  | some k => (s.chainsOf x).owner[k]?
  | none => none

/-- The ownership table with the slip's entry changed (R96). -/
def State.ownersWith (s : State) (x : Side) (slip : Word) (o : Owner) : List Owner :=
  match s.slipIndex x slip with
  | some k => (s.chainsOf x).owner.set k o
  | none => (s.chainsOf x).owner

/-- The free-low mark of a side in force (R83); 0 without a layout. -/
def State.markOf (s : State) (x : Side) : Nat :=
  match s.exchange.layout with
  | some l => l.mark.get x
  | none => 0

/-- The silence limit of a side in ms; 0 is off, and there is none without a layout (R77). -/
def State.limitMs (s : State) (x : Side) : Nat :=
  match s.exchange.layout with
  | some l => 10 * l.limit.get x
  | none => 0

/-- HELD to the tail of INBOUND (R99). -/
def State.moveToInbound (s : State) (x : Side) (slip : Word) : State :=
  s.withChains x
    { s.chainsOf x with owner := s.ownersWith x slip .inbound, inbound := (s.chainsOf x).inbound ++ [slip] }

/-- To the tail of FREE (R100, R106). -/
def State.moveToFree (s : State) (x : Side) (slip : Word) : State :=
  s.withChains x { s.chainsOf x with owner := s.ownersWith x slip .free, free := (s.chainsOf x).free ++ [slip] }

/-- To the tail of RETURN; RETURN_READY latches when RETURN was empty (R106, R110). -/
def State.moveToReturn (s : State) (x : Side) (slip : Word) : State :=
  let moved := s.withChains x
    { s.chainsOf x with owner := s.ownersWith x slip .returned, ret := (s.chainsOf x).ret ++ [slip] }
  if (s.chainsOf x).ret.isEmpty then moved.latch x .returnReady else moved

/-- The head of INBOUND becomes IN_WORK, and the pointer names the other side (R105, R113). -/
def State.moveToWork (s : State) (x : Side) (slip : Word) : State :=
  let moved := s.withChains x
    { s.chainsOf x with owner := s.ownersWith x slip .inWork, inbound := (s.chainsOf x).inbound.tail }
  { moved with intake := { moved.intake with pointer := x.other } }

/-- The three conditions of an append (R99). -/
def State.appendAccepted (s : State) (x : Side) (slip : Word) : Bool :=
  s.isReady && decide (s.ownerOf x slip = some .held)

/-- The chains are in service (R101, R102). -/
def State.takesServed (s : State) : Bool :=
  decide (s.startUp.part = .ready) || decide (s.startUp.part = .restarting)

/-! ## Answers and completions -/

/-- The answer written into the header of an IN_WORK slip: result code, detail, progress, and ANSWERED (R115, R191). -/
def State.writeAnswer (s : State) (slip : Word) (code : ResultCode) (detail progress : Word) : State :=
  let a := slip.toNat
  let x := s.exchange
  let x := x.writeWord (a + 6) code.code
  let x := x.writeWord (a + 8) detail
  let x := x.writeWord (a + 10) progress
  let x := x.writeWord (a + 2) (x.readWord (a + 2) ||| 1)
  { s with exchange := x }

/-- The slip answered and completed to RETURN (R106, R115). -/
def State.answer (s : State) (x : Side) (slip : Word) (code : ResultCode) (detail progress : Word) : State :=
  (s.writeAnswer slip code detail progress).moveToReturn x slip

/-! ## Waiting slips (R129) -/

/-- A fate entered for the record kind it concerns. -/
def Waiting.withFate (w : Waiting) (kind : RecordKind) (f : Fate) : Waiting :=
  match kind with
  | .marker => { w with marker := some f }
  | .summary => { w with summary := some f }
  | .onset | .close | .snapshot => w

/-- 0 for a committed record, else the given weight. -/
def lossDetail (f : Fate) (weight : Word) : Word :=
  match f with
  | .committed => 0
  | .dropped | .givenUp => weight

/-- The result detail once the fates of all the records the slip waits for are known (R75, R134, R137). -/
def Waiting.detail (w : Waiting) : Option Word :=
  match w.kind, w.marker, w.summary with
  | .rideClose, _, some f => some (lossDetail f 1)
  | .release, some f, _ => some (lossDetail f 1)
  | .wipe, some m, some f => some (lossDetail m 1 + lossDetail f 2)
  | _, _, _ => none

/-- A waiting slip whose fates are all known is answered OK and returned; a wipe clears the wipe-waiting mark
(R129, R137). -/
def State.settleWaiting (s : State) (w : Waiting) : State :=
  match w.detail with
  | none => s
  | some detail =>
    let left := s.intake.waiting.filter (fun v => !(v.side == w.side && v.slip == w.slip))
    let intake := { s.intake with
      waiting := left, wipeWaiting := s.intake.wipeWaiting && !decide (w.kind = .wipe) }
    ({ s with intake := intake }).answer w.side w.slip .ok detail 0

/-- The fate of a record is reported to the block whose slip waits for it (R129). -/
def State.reportFate (s : State) (kind : RecordKind) (slip : Option (Side × Word)) (f : Fate) : State :=
  match slip with
  | none => s
  | some (x, off) =>
    let waiting := s.intake.waiting.map
      (fun w => if w.side == x && w.slip == off then w.withFate kind f else w)
    let s' := { s with intake := { s.intake with waiting := waiting } }
    match waiting.find? (fun w => w.side == x && w.slip == off) with
    | none => s'
    | some w => s'.settleWaiting w

/-! ## Resets (R177) -/

/-- The blocks at their reset values (R177): what a reset of this kind leaves, exchange memory kept, the array given. A
frame in progress on a port ends with it (the model's choice, logs 10 and 11). -/
def State.resetBlocks (s : State) (cause : ResetKind) (array : Memory) : State :=
  { s with
    ports := .both .reset
    exchange := { s.exchange with layout := none }
    chains := .reset
    intake := .reset
    qual := .reset
    episodes := .reset
    snaps := .reset
    rides := .reset
    archive := .reset array
    supply := { s.supply with dips := 0 }
    startUp := { s.startUp with
      phase := .held, part := .scanning, cause := cause, adoptRemembered := false, layoutResult := .none,
      tornRecords := 0, duplicatesResolved := 0, orphanRides := 0, drain := none } }

/-- The kind of reset clears exchange memory (R94, R95). -/
def ResetKind.clears (k : ResetKind) : Bool := decide (k = .powerOn) || decide (k = .supply)

/-- The part state SCANNING written to the status area (R84, R93). -/
def State.writeScanning (s : State) : State :=
  { s with exchange := { s.exchange with status := { s.exchange.status with partState := PartState.code .scanning } } }

/-- Start-up begins once nothing holds the device: with the clearing for a POWER_ON or SUPPLY start-up whose clearing
has not been interrupted, else with the part state SCANNING written and the scan (R177, R179). -/
def State.beginStartUp (s : State) : State :=
  if s.startUp.resetLow || s.startUp.supplyHold then s
  else if s.startUp.cause.clears && !s.startUp.clearingCut then
    { s with startUp := { s.startUp with phase := .clearing } }
  else
    ({ s with startUp := { s.startUp with phase := .scanning } }).writeScanning

/-- What a clearing under way leaves in exchange memory when it is interrupted after `cleared` bytes, whole words
counting (R95, log 7); otherwise exchange memory as it stands. -/
def State.interruptClearing (s : State) (cleared : Nat) : State :=
  if s.startUp.phase = .clearing then
    let limit := 2 * (cleared / 2)
    { s with exchange := { s.exchange with
      cells := s.exchange.cells.clearBelow limit, status := s.exchange.status.clearBelow limit } }
  else s

/-- A reset of kind RESTART at the end of the drain (R177, R178). -/
def State.restartReset (s : State) (array : Memory) : State :=
  let r := s.resetBlocks .restart array
  ({ r with startUp := { r.startUp with clearingCut := false } }).beginStartUp

end Sys2Proof.Machine
end

