-- ==== Sys2Proof/Machine/ArchiveView.lean ====
section
/-! DEFINITION. What the archive unit sees in the array: the records of LIVE segments, presence and pins (R144, R156), the
records a preparation carries (R161), the write path's turn (R166), and how writes under way are cut off (R154, R176 to
R178). -/

namespace Sys2Proof.Machine

/-- The archive unit replaced. -/
def State.withArchive (s : State) (a : Archive) : State := { s with archive := a }

/-! ## The records of the array -/

/-- The walk of a segment as it stands. In the head segment it goes no further than the head offset: what lies beyond
has not passed the verify of R150 (R142), and while the stop unit of R181 is unwritten nothing else ends the walk
there (log 30). Once the head has left a segment the bytes alone decide, and a given-up record whose earlier commit word is
intact counts as committed there (the model's choice, log 36). In a segment whose entry was cut off behind its header the
torn stop unit ends the walk at once (R176). -/
def Archive.walk (a : Archive) (i : Fin 16) : Walk :=
  if a.entering = some i then ⟨[], Config.recordArea, .uncommitted⟩
  else
    let w := walkSegment a.array i
    match a.head with
    | none => w
    | some h =>
      if h.segment = i ∧ h.offset < w.endOffset then
        { records := w.records.filter (fun r => decide (r.offset < h.offset)), endOffset := h.offset, ended := .stopUnit }
      else w

/-- The committed records of a segment, disregarded duplicates left out (R142, R182). -/
def Archive.recordsOf (a : Archive) (i : Fin 16) : List Stored :=
  (a.walk i).records.filter (fun r => !a.disregarded.contains (r.segment, r.offset))

/-- The committed records of all LIVE segments. -/
def Archive.liveRecords (a : Archive) : List Stored :=
  ((indices 16).filter (fun i => (a.segments.get i).state == .live)).flatMap a.recordsOf

/-- The record is present (R144). -/
def Archive.isPresent (a : Archive) (r : Stored) : Bool := decide (a.wipeSequence ≤ r.sequence)

/-- The stored record counts as pinned (R156). -/
def Archive.countsStored (a : Archive) (r : Stored) : Bool :=
  r.pinned && decide (r.generation = a.pinGeneration) && a.isPresent r

/-- The record is one of the three always-carried records (R144). -/
def Archive.alwaysCarried (a : Archive) (r : Stored) : Bool :=
  (decide (r.kind = .summary) && decide (a.newestSummary = some r.sequence)) ||
    (r.isMarker a.array .release && decide (a.newestRelease = some r.sequence)) ||
    (r.isMarker a.array .wipe && decide (a.newestWipe = some r.sequence))

/-- The record is carried when the walk reaches it (R161). -/
def Archive.selects (a : Archive) (r : Stored) : Bool :=
  a.isPresent r && (a.countsStored r || a.alwaysCarried r)

/-- The next record of the target to carry, from the walk's position on (R161, log 16). -/
def Archive.nextCarry (a : Archive) (p : Preparation) : Option Stored :=
  (a.recordsOf p.target).find? (fun r => decide (p.position ≤ r.offset) && a.selects r)

/-! ## The write path (R166) -/

/-- A write with a read-back to come holds the array. -/
def Archive.busy (a : Archive) : Bool :=
  match a.work with
  | some w => (match w.item with | .record | .carry .. => true | .steps => false) || w.suspended
  | none => false

/-- The arbiter may grant the array to the write path (R166). -/
def State.mayWrite (s : State) : Bool :=
  decide (s.startUp.phase = .running) && decide (s.archive.state = .running) && !s.locked && !s.archive.busy

/-! ## Writes cut off (R154, R176 to R178) -/

/-- The units of the item under way; one that a LOW entry has cut off writes none (R176). -/
def Archive.unitsUnderWay (a : Archive) : List UnitWrite :=
  match a.work with
  | some w => if w.suspended then [] else w.writes
  | none => []

/-- The header unit that a vacating writes (R163). -/
def Archive.vacantHeader (a : Archive) (p : Preparation) : Nat × Unit64 :=
  headerUnit p.target .vacant (a.segments.get p.target).sequence

/-- The vacating header, while the write path's item is a vacating: the array is granted to it, and its end is the
command VACATE (R163, R166; log 33). -/
def State.vacatingHeader (s : State) : List (Nat × Unit64) :=
  match s.archive.preparation with
  | none => []
  | some p =>
    if s.mayWrite && !s.archive.stopUnitMissing && (s.archive.nextCarry p).isNone then [s.archive.vacantHeader p] else []

/-- The units whose writing can be cut off now, with the array in which all of them stand. -/
def State.openWrites (s : State) : Memory × List UnitWrite :=
  let r := performWrites s.archive.array s.vacatingHeader
  (r.1, s.archive.unitsUnderWay ++ r.2)

/-- The array when the writes under way are cut off (R176, R177); a write cut off before stays as it is. -/
def State.cutOff (s : State) (cut : Cut) : Memory := cutWrites cut.mix cut.done s.openWrites.2 s.openWrites.1

/-- The array when writing stops after whole units (R178). -/
def State.stopOff (s : State) (unitsDone : Nat) : Memory := stopWrites unitsDone s.openWrites.2 s.openWrites.1

/-- The units in front of the record of a verified write: a WORN mark's header, an entry's header and stop unit. -/
def Work.front (w : Work) : Nat := w.marks + if w.entry.isSome then 2 else 0

/-- An entry is cut off (R160, R176): the head, the counts and the preparation are as before it. The table and the counter
keep what they took if the header has been whole. -/
def Archive.leaveEntry (a : Archive) (e : Entry) (headerWhole : Bool) : Archive :=
  let back := { a with head := e.left, preparation := none }
  if headerWhole then { back with entering := some e.segment }
  else { back with segments := back.segments.set e.segment e.was, segmentCounter := e.number }

/-- The entry under way, if the writing ends after `done` whole units within it. -/
def Archive.cutEntry (a : Archive) (done : Nat) : Archive :=
  match a.work with
  | none => a
  | some w =>
    match w.entry with
    | none => a
    | some e =>
      if w.suspended ∨ w.front ≤ done then a else a.leaveEntry e (e.headerHeld || decide (w.marks + 1 ≤ done))

/-- What a LOW entry leaves to be written again of the item under way (R176): nothing of one that needs no read-back and
whose units are whole; a WORN mark with the entry behind it, an entry from its header with the record behind it, or the
record alone, as the cut falls. -/
def Work.cutAt (w : Work) (cut : Cut) : Option Work :=
  if w.suspended then some w
  else if w.item = .steps ∧ w.writes.length ≤ cut.done then none
  else if cut.done < w.marks then some { w with suspended := true }
  else if cut.done < w.front then
    some { w with
      marks := 0, writes := w.writes.drop w.marks, suspended := true
      entry := w.entry.map (fun e => { e with headerHeld := e.headerHeld || decide (w.marks + 1 ≤ cut.done) }) }
  else some { w with marks := 0, entry := none, writes := w.writes.drop w.front, suspended := true }

/-- The archive having stopped, the write under way writes no further unit (R154): how many of its units are whole and
what the one after them holds is free (log 34), and an entry under way has got as far as its units. -/
def State.haltWrites (s : State) : State :=
  match s.archive.work with
  | none => s
  | some _ =>
    let done := Config.stopUnits s.draws
    let array := cutWrites (Config.stopMix s.draws) done s.archive.unitsUnderWay s.archive.array
    { s with archive := { s.archive.cutEntry done with array := array, work := none }, draws := s.draws + 1 }

end Sys2Proof.Machine
end

