-- ==== Sys2Proof/Machine/Filing.lean ====
section
/-! DEFINITION. The filing queue and the archive stop: offers, acceptance, drops, the pin decision, give-ups (R143,
R145 to R148, R153 to R157), slots that become FREE (R60), and read jobs, which yield to the write path (R170) and end at
a stop (R173). -/

namespace Sys2Proof.Machine

/-! ## Slots (R60) -/

/-- The episode with this number loses its slot number. -/
def Episode.withoutSlot (e : Episode) (number : DWord) : Episode :=
  if e.number = number then { e with slot := none } else e

/-- The slot becomes FREE, and the open episode it belongs to, if any, loses its slot number (R60). -/
def State.freeSlot (s : State) (i : Fin 8) : State :=
  match s.snaps.slots.get i with
  | none => s
  | some c =>
    { s with
      snaps := { s.snaps with slots := s.snaps.slots.set i none, order := s.snaps.order.filter (fun j => j != i) }
      episodes := { s.episodes with
        table := s.episodes.table.map (fun e => e.map (fun v => v.withoutSlot c.episode)) } }

/-- The block that offered a queued record is told its fate: the slot becomes FREE, or the waiting slip's block
learns it (R129, R150, R153). -/
def State.tellFate (s : State) (d : Descriptor) (f : Fate) : State :=
  match d.record.body with
  | .snapshot slot => s.freeSlot slot
  | .onset .. | .close .. | .summary .. | .marker .. => s.reportFate d.record.body.kind d.waiting f

/-! ## Drops and give-ups -/

/-- One record dropped or given up is counted, and ARCHIVE_ALERT latches on both ports (R148, R153). -/
def State.countDrop (s : State) : State :=
  ({ s with archive := { s.archive with recordsDropped := satInc s.archive.recordsDropped } }).latchBoth .archiveAlert

/-- The queued record counts as pinned (R156). -/
def Archive.countsQueued (a : Archive) (d : Descriptor) : Bool := d.pinned && decide (d.generation = a.pinGeneration)

/-- The pinned bytes reduced by a length. -/
def State.unpin (s : State) (length : Nat) : State :=
  { s with archive := { s.archive with pinnedBytes := s.archive.pinnedBytes - length } }

/-- What a give-up counts: a drop, and no longer a pin (R153). -/
def State.countGiveUp (s : State) (d : Descriptor) : State :=
  (if s.archive.countsQueued d then s.unpin (d.length s.snaps.slots) else s).countDrop

/-- A queued record is given up and its fate told (R153, R154). The caller removes its descriptor. -/
def State.giveUp (s : State) (d : Descriptor) : State := (s.countGiveUp d).tellFate d .givenUp

/-! ## Read jobs: yields and their end -/

/-- The control block of a read job, from slip offset 32 (R170, R191). -/
def controlBlock (sequence : DWord) (offset bytesWritten recordsCopied : Nat) (gap partDone : Bool) : List Byte :=
  dwordBytes sequence ++ leBytes 2 offset ++ leBytes 2 bytesWritten ++ leBytes 2 recordsCopied ++
    leBytes 2 (bitIf gap 0 + bitIf partDone 1)

/-- The control block written into the slip body (R170). -/
def State.writeControlBlock (s : State) (slip : Word) (block : List Byte) : State :=
  { s with exchange := s.exchange.writeBytes (slip.toNat + 32) block }

/-- Every running job writes its control block with part-done set (R170). -/
def State.yieldJob (s : State) (x : Side) : State :=
  match s.archive.jobs.get x with
  | none => s
  | some j =>
    let s1 := s.writeControlBlock j.slip
      (controlBlock j.sequence j.offset j.bytesWritten j.recordsCopied j.gap true)
    s1.withArchive { s1.archive with jobs := s1.archive.jobs.set x (some { j with partDone := true }) }

/-- Both jobs yield to a grant of the write path (R170). -/
def State.yieldJobs (s : State) : State := (s.yieldJob .engine).yieldJob .brake

/-- The vacating that a cut-off falls into had been granted the array, so the jobs had yielded to it (R170). -/
def State.yieldVacating (s : State) (cut : Cut) : State :=
  if !s.vacatingHeader.isEmpty && decide (s.archive.unitsUnderWay.length ≤ cut.done) then s.yieldJobs else s

/-- A read job ends: its last control block with this next cursor and part-done clear, its answer, its slip to RETURN,
and the side has no job (R172, R173). -/
def State.endJob (s : State) (x : Side) (j : Job) (code : ResultCode) (sequence : DWord) (offset : Nat) : State :=
  let s1 := s.writeControlBlock j.slip (controlBlock sequence offset j.bytesWritten j.recordsCopied j.gap false)
  let s2 := { s1 with archive := { s1.archive with jobs := s1.archive.jobs.set x none } }
  s2.answer x j.slip code (BitVec.ofNat 16 j.recordsCopied) (BitVec.ofNat 16 j.bytesWritten)

/-- A running job ends ABORTED at an archive stop (R173). -/
def State.abortJob (s : State) (x : Side) : State :=
  match s.archive.jobs.get x with
  | none => s
  | some j => s.endJob x j .aborted j.sequence j.offset

/-! ## Archive stop (R154) -/

/-- The number of WORN segments as the measured value of a store failure (R20). -/
def Archive.wornValue (a : Archive) : Word := BitVec.ofNat 16 (a.count .worn)

/-- The archive stops (R154): every queued record is given up, oldest first, ARCHIVE_ALERT latches, a preparation ends
where it stands, and running read jobs end ABORTED. The FAILs for monitor 101, one for the stop and one before it for a
fifth WORN mark, are put off to the end of the step, and so is what becomes of a write under way. -/
def State.archiveStop (s : State) (byWorn : Bool) : State :=
  let value := s.archive.wornValue
  let fails := if byWorn then [value, value] else [value]
  let s1 := { s with archive := { s.archive with
    state := .stopped, queue := [], preparation := none, storeFails := s.archive.storeFails ++ fails } }
  let s2 := (s.archive.queue.foldl State.giveUp s1).latchBoth .archiveAlert
  (s2.abortJob .engine).abortJob .brake

/-! ## Offers (R146 to R148, R155, R157) -/

/-- The kinds whose queue places are not limited to 44 (R146). -/
def RecordKind.reserved : RecordKind → Bool
  | .summary | .marker => true
  | .onset | .close | .snapshot => false

/-- Descriptors of kinds other than RIDE_SUMMARY and MARKER. -/
def Archive.commonQueued (a : Archive) : Nat :=
  (a.queue.filter (fun d => !d.record.body.kind.reserved)).length

/-- The body is a RELEASE marker. -/
def Body.isRelease : Body → Bool
  | .marker .release _ => true
  | .marker .wipe _ | .onset .. | .close .. | .snapshot _ | .summary .. => false

/-- The queue has a place for a record of this kind (R146). -/
def Archive.hasPlace (a : Archive) (k : RecordKind) : Bool :=
  decide (a.queue.length < Config.queuePlaces) && (k.reserved || decide (a.commonQueued < Config.commonPlaces))

/-- The record is accepted (R146): the archive runs, a place is free, and a RELEASE finds a generation to raise. -/
def Archive.accepts (a : Archive) (r : Record) : Bool :=
  decide (a.state = .running) && a.hasPlace r.body.kind &&
    !(r.body.isRelease && decide (a.pinGeneration = BitVec.allOnes 32))

/-- The record is of a kind and class whose pin is decided at acceptance (R155). -/
def Record.pinnable (r : Record) : Bool :=
  decide (r.cls = .safety) && (decide (r.body.kind = .onset) || decide (r.body.kind = .snapshot))

/-- An accepted record (R147): sequence, a RELEASE's effect on the pins, pin generation, pin decision, descriptor. -/
def State.accept (s : State) (r : Record) (waiting : Option (Side × Word)) : State :=
  let a := s.archive
  let released := r.body.isRelease
  let generation := if released then a.pinGeneration + 1 else a.pinGeneration
  let bytes := if released then 0 else a.pinnedBytes
  let length := r.body.length s.snaps.slots
  let fits := decide (bytes + length ≤ Config.pinCap)
  let pinned := r.pinnable && fits
  let overflow := r.pinnable && !fits
  let d : Descriptor :=
    { record := r, sequence := BitVec.ofNat 32 a.sequenceCounter, pinned := pinned, generation := generation,
      waiting := waiting, attempt := .first }
  let a' := { a with
    sequenceCounter := a.sequenceCounter + 1
    pinGeneration := generation
    pinnedBytes := if pinned then bytes + length else bytes
    retentionOverflows := if overflow then satInc a.retentionOverflows else a.retentionOverflows
    queue := a.queue ++ [d] }
  let s' := { s with archive := a' }
  if overflow then s'.latchBoth .archiveAlert else s'

/-- An offer that finds the archive sequence counter exhausted stops a running archive first (R146, R154). -/
def State.stopIfExhausted (s : State) : State :=
  if s.archive.state = .running ∧ Config.counterEnd ≤ s.archive.sequenceCounter then s.archiveStop false else s

/-- A record offered to the filing queue: whether it was accepted, and the state after (R146 to R148). -/
def State.offer (s : State) (r : Record) (waiting : Option (Side × Word)) : State × Bool :=
  let s1 := s.stopIfExhausted
  if s1.archive.accepts r then (s1.accept r waiting, true) else (s1.countDrop, false)

/-- A record offered by a block that keeps no trace of the answer (R42). -/
def State.offerClose (s : State) (r : Record) : State := (s.offer r none).1

/-- A record offered for a waiting slip, whose fate is known at once when the record is dropped (R129). -/
def State.offerFor (s : State) (r : Record) (x : Side) (slip : Word) : State :=
  match s.offer r (some (x, slip)) with
  | (s', true) => s'
  | (s', false) => s'.reportFate r.body.kind (some (x, slip)) .dropped

/-! ## Captures at their end (R54 to R59) -/

/-- The SNAPSHOT record of a slot (R58). -/
def Capture.record (c : Capture) (i : Fin 8) : Record :=
  { body := .snapshot i, cls := c.cls, ride := c.ride, monitor := some c.monitor, origin := c.origin,
    episode := c.episode }

/-- A COMPLETE slot whose record has been offered becomes FILING if it was accepted and FREE if it was dropped (R54). -/
def State.settleSlot (s : State) (accepted : Bool) (i : Fin 8) (c : Capture) : State :=
  if accepted then
    { s with snaps := { s.snaps with slots := s.snaps.slots.set i (some { c with phase := .filing }) } }
  else s.freeSlot i

/-- A capture ends: its timer stops, the slot is COMPLETE and offers its record once (R54, R59). A slot that is not
CAPTURING is left (R55). -/
def State.endCapture (s : State) (i : Fin 8) (cause : EndCause) : State :=
  match s.snaps.slots.get i with
  | none => s
  | some c =>
    if c.phase = .capturing then
      let ended := { c with phase := .complete, timer := none, endCause := some cause }
      let s1 := { s with snaps := { s.snaps with slots := s.snaps.slots.set i (some ended) } }
      let r := s1.offer (ended.record i) none
      r.1.settleSlot r.2 i ended
    else s

/-- Every CAPTURING slot ends with a cause, in the order in which the captures began (R56, R57). -/
def State.endCaptures (s : State) (cause : EndCause) : State :=
  s.snaps.order.foldl (fun acc i => acc.endCapture i cause) s

end Sys2Proof.Machine
end

