-- ==== Sys2Proof/Machine/Episodes.lean ====
section
/-! DEFINITION. Captures and fault episodes: taking a slot (R52, R53), opening, updating, evicting and closing episodes
(R27 to R45), and the copy of the open episodes (R46, R47, R192). -/

namespace Sys2Proof.Machine

/-! ## Captures (R49 to R54) -/

/-- The history ring with a frame appended as the newest, at most six kept (R49). -/
def ringAppend (ring : List Frame) (f : Frame) : List Frame :=
  let all := ring ++ [f]
  all.drop (all.length - Config.ringFrames)

/-- The newest frames of a list, at most `n`, oldest first. -/
def newest (n : Nat) (fs : List Frame) : List Frame := fs.drop (fs.length - n)

/-- FREE slots a capture request of a class needs (R52). -/
def slotsNeeded (c : MonitorClass) : Nat := if c = .safety then 1 else 3

/-- The slots that are FREE, ascending. -/
def Snapshots.freeSlots (p : Snapshots) : List (Fin 8) := (indices 8).filter (fun i => (p.slots.get i).isNone)

/-- The slot a request of a class takes, if enough are FREE (R52). -/
def Snapshots.slotFor (p : Snapshots) (c : MonitorClass) : Option (Fin 8) :=
  if slotsNeeded c ≤ p.freeSlots.length then p.freeSlots.head? else none

/-- A capture at its start (R51, R53). -/
def State.newCapture (s : State) (e : Episode) (pre post : Nat) : Capture :=
  { phase := .capturing, episode := e.number, monitor := e.monitor, cls := e.cls,
    origin := MonitorId.origin e.monitor, ride := e.ride, onsetClock := e.onsetClock, preWanted := pre,
    postWanted := post, pre := newest pre (s.snaps.ring.filter (fun f => decide (f.clock ≤ e.onsetClock))),
    post := [], timer := some Config.captureMs, endCause := none }

/-- The capture of a taken slot begins; one that wants no post frames ends at once (R53). -/
def State.beginCapture (s : State) (i : Fin 8) (c : Capture) : State :=
  let s1 := { s with snaps := { s.snaps with
    slots := s.snaps.slots.set i (some c), order := s.snaps.order ++ [i] } }
  if c.postWanted = 0 then s1.endCapture i .complete else s1

/-- The episode with a slot number. -/
def Episode.withSlot (i : Fin 8) (e : Episode) : Episode := { e with slot := some i }

/-- The episode with its onset-record-queued field set (R30). -/
def Episode.withQueued (b : Bool) (e : Episode) : Episode := { e with onsetQueued := b }

/-- A capture request for the episode in entry `k` (R33, R52): a slot is taken and its number written into the
episode, or a snapshot miss is counted. -/
def State.requestCapture (s : State) (k : Fin 24) (e : Episode) (pre post : Nat) : State :=
  if pre + post = 0 then s
  else
    match s.snaps.slotFor e.cls with
    | none => { s with snaps := { s.snaps with misses := satInc s.snaps.misses } }
    | some i =>
      let s1 := { s with episodes := { s.episodes with
        table := s.episodes.table.set k ((s.episodes.table.get k).map (Episode.withSlot i)) } }
      s1.beginCapture i (s.newCapture e pre post)

/-- A frame collected by a CAPTURING slot; the last one wanted ends the capture (R54). -/
def State.collectFrame (s : State) (f : Frame) (i : Fin 8) : State :=
  match s.snaps.slots.get i with
  | none => s
  | some c =>
    if c.phase = .capturing ∧ c.post.length < c.postWanted then
      let c' := { c with post := c.post ++ [f] }
      let s1 := { s with snaps := { s.snaps with slots := s.snaps.slots.set i (some c') } }
      if c'.post.length = c'.postWanted then s1.endCapture i .complete else s1
    else s

/-- A context frame enters the history ring and then every running capture, in the order the captures began (R50,
R54). -/
def State.takeFrame (s : State) (f : Frame) : State :=
  let s1 := { s with snaps := { s.snaps with ring := ringAppend s.snaps.ring f } }
  s.snaps.order.foldl (fun acc i => acc.collectFrame f i) s1

/-! ## The ports an onset is reported to (R1, R16, R32) -/

/-- The ONSET notice of a monitor: 100 and 101 on both ports, 96 and 98 on the engine port, 97 and 99 on the brake
port, a host monitor on its side's port. -/
def State.latchOnset (s : State) (m : MonitorId) : State :=
  if 100 ≤ m.val then s.latchBoth .onset
  else if 96 ≤ m.val then s.latch (if m.val % 2 = 0 then .engine else .brake) .onset
  else s.latch (if m.val < 48 then .engine else .brake) .onset

/-! ## Opening (R29 to R33) -/

/-- An onset as the qualification unit hands it over (R11). -/
structure Onset where
  monitor : MonitorId
  cls : MonitorClass
  value : Word
  time : Option DWord
  failLimit : Nat
  preFrames : Nat
  postFrames : Nat
deriving DecidableEq, Repr

/-- The next episode number; 0 is skipped (R29). -/
def nextEpisodeNumber (n : DWord) : DWord := if n + 1 = 0 then 1 else n + 1

/-- The ride state is PARKED, as the flag of episodes and records. -/
def State.isParked (s : State) : Bool := decide (s.rides.state = .parked)

/-- The ONSET record, tracked (R31) or untracked with episode number 0 (R40). -/
def State.onsetRecord (s : State) (o : Onset) (number : DWord) (untracked : Bool) : Record :=
  { body := .onset s.rides.clock o.value o.failLimit untracked s.isParked o.time, cls := o.cls,
    ride := s.rides.number, monitor := some o.monitor, origin := MonitorId.origin o.monitor, episode := number }

/-- A new episode (R27, R30). -/
def State.newEpisode (s : State) (o : Onset) : Episode :=
  { number := s.episodes.counter, monitor := o.monitor, cls := o.cls, state := .active, ride := s.rides.number,
    onsetClock := s.rides.clock, lastFailClock := s.rides.clock, occurrences := 1, suppressed := 0,
    worst := o.value, parked := s.isParked, slot := none, onsetQueued := false }

/-- The entries of the episode table that are unused, ascending. -/
def Episodes.unused (e : Episodes) : List (Fin 24) := (indices 24).filter (fun k => (e.table.get k).isNone)

/-- An episode opens in entry `k` (R30): the entry is filled, the ONSET record offered, the capture requested, ONSET
latched. -/
def State.openEpisode (s : State) (k : Fin 24) (o : Onset) : State :=
  let e := s.newEpisode o
  let s1 := { s with episodes := { s.episodes with
    table := s.episodes.table.set k (some e), counter := nextEpisodeNumber s.episodes.counter } }
  let r := s1.offer (s.onsetRecord o e.number false) none
  let s2 := r.1
  let s3 := { s2 with episodes := { s2.episodes with
    table := s2.episodes.table.set k ((s2.episodes.table.get k).map (Episode.withQueued r.2)) } }
  (s3.requestCapture k e o.preFrames o.postFrames).latchOnset o.monitor

/-! ## Closing (R42, R43) -/

/-- The CLOSE record of an episode (R42). -/
def State.closeRecord (s : State) (e : Episode) (cause : CloseCause) : Record :=
  { body := .close cause false e.worst (s.rides.clock - e.onsetClock) e.lastFailClock e.occurrences e.suppressed,
    cls := e.cls, ride := e.ride, monitor := some e.monitor, origin := MonitorId.origin e.monitor,
    episode := e.number }

/-- The CLOSE record is offered and the entry becomes unused (R42). -/
def State.closeEpisode (s : State) (k : Fin 24) (cause : CloseCause) : State :=
  match s.episodes.table.get k with
  | none => s
  | some e =>
    let s1 := s.offerClose (s.closeRecord e cause)
    { s1 with episodes := { s1.episodes with table := s1.episodes.table.set k none } }

/-- One monitor. -/
def State.monitor (s : State) (m : MonitorId) : Monitor := s.qual.monitors.get m

/-- One monitor replaced. -/
def State.setMonitor (s : State) (m : MonitorId) (v : Monitor) : State :=
  { s with qual := { s.qual with monitors := s.qual.monitors.set m v } }

/-- The class in the adopted settings of a monitor; INFORMATION where it has none, which no FAILED monitor has. -/
def Monitor.cls (v : Monitor) : MonitorClass :=
  match v.adopted with
  | some g => g.cls
  | none => .information

/-- The untracked CLOSE record of a monitor (R43). -/
def State.untrackedClose (s : State) (m : MonitorId) (cause : CloseCause) : Record :=
  { body := .close cause true 0 0 0 0 0, cls := (s.monitor m).cls, ride := s.rides.number, monitor := some m,
    origin := MonitorId.origin m, episode := 0 }

/-- The entry of the open episode of a monitor, if it has one (R28). -/
def Episodes.entryOf (e : Episodes) (m : MonitorId) : Option (Fin 24) :=
  (indices 24).find? (fun k => match e.table.get k with | some v => v.monitor == m | none => false)

/-! ## A full table (R38 to R40) -/

/-- The episode may be evicted by an onset of a class (R38). -/
def Episode.evictable (e : Episode) (c : MonitorClass) : Bool :=
  decide (e.state = .healing) && decide (e.cls.rank ≤ c.rank)

/-- `e` comes before `f` as the one to evict: lower rank, then lower number (R38). -/
def Episode.before (e f : Episode) : Bool :=
  decide (e.cls.rank < f.cls.rank) || (decide (e.cls.rank = f.cls.rank) && decide (e.number < f.number))

/-- The better candidate of the best so far and an entry. -/
def Episodes.better (p : Episodes) (c : MonitorClass) (best : Option (Fin 24)) (k : Fin 24) : Option (Fin 24) :=
  match p.table.get k with
  | none => best
  | some e =>
    if e.evictable c then
      match best with
      | none => some k
      | some b =>
        match p.table.get b with
        | none => some k
        | some f => if e.before f then some k else best
    else best

/-- The entry of the episode to evict, if there is a candidate (R38). -/
def Episodes.candidate (p : Episodes) (c : MonitorClass) : Option (Fin 24) :=
  (indices 24).foldl (p.better c) none

/-- The monitor is marked untracked. -/
def State.markUntracked (s : State) (m : MonitorId) : State := s.setMonitor m { s.monitor m with untracked := true }

/-- The episode in entry `k` is evicted: it closes and its monitor becomes untracked (R39). -/
def State.evict (s : State) (k : Fin 24) : State :=
  match s.episodes.table.get k with
  | none => s
  | some e => (s.closeEpisode k .evicted).markUntracked e.monitor

/-- The onset goes untracked (R40). -/
def State.untrackedOnset (s : State) (o : Onset) : State :=
  let s1 := (s.markUntracked o.monitor).offerClose (s.onsetRecord o 0 true)
  { s1 with episodes := { s1.episodes with untrackedOnsets := satInc s1.episodes.untrackedOnsets } }

/-- The episode unit takes an onset: it opens an episode, evicts one for it, or leaves it untracked (R30, R38). -/
def State.takeOnset (s : State) (o : Onset) : State :=
  match s.episodes.unused with
  | k :: _ => s.openEpisode k o
  | [] =>
    match s.episodes.candidate o.cls with
    | some k => (s.evict k).openEpisode k o
    | none => s.untrackedOnset o

/-! ## An episode while it is open (R34 to R37) -/

/-- The magnitude of a measured value (R35). -/
def magnitude (v : Word) : Nat := v.toInt.natAbs

/-- ACTIVE above 0, HEALING at or below (R37). -/
def episodeStateOf (counter : Int) : EpisodeState := if 0 < counter then .active else .healing

/-- The episode after an occurrence (R34). -/
def Episode.occurrence (e : Episode) (value : Word) (clock : DWord) (counter : Int) : Episode :=
  { e with
    occurrences := satInc e.occurrences
    worst := if magnitude e.worst < magnitude value then value else e.worst
    lastFailClock := clock
    state := episodeStateOf counter }

/-- The open episode of a monitor, if any, changed. -/
def State.updateEpisode (s : State) (m : MonitorId) (f : Episode → Episode) : State :=
  match s.episodes.entryOf m with
  | none => s
  | some k =>
    { s with episodes := { s.episodes with table := s.episodes.table.set k ((s.episodes.table.get k).map f) } }

/-- A heal at the episode unit (R43): the episode closes HEALED, or the untracked CLOSE record is offered. -/
def State.healEpisode (s : State) (m : MonitorId) : State :=
  match s.episodes.entryOf m with
  | some k => s.closeEpisode k .healed
  | none => if (s.monitor m).untracked then s.offerClose (s.untrackedClose m .healed) else s

/-! ## Boundaries (R44) -/

/-- Entries in ascending episode number, by insertion. -/
def insertByNumber (p : Episodes) (k : Fin 24) : List (Fin 24) → List (Fin 24)
  | [] => [k]
  | j :: rest =>
    match p.table.get k, p.table.get j with
    | some e, some f => if e.number < f.number then k :: j :: rest else j :: insertByNumber p k rest
    | _, _ => j :: insertByNumber p k rest

/-- The entries in use, in ascending episode number. -/
def Episodes.byNumber (p : Episodes) : List (Fin 24) :=
  ((indices 24).filter (fun k => (p.table.get k).isSome)).foldl (fun acc k => insertByNumber p k acc) []

/-- The monitors that are FAILED and untracked, ascending. -/
def Qualification.untrackedFailed (q : Qualification) : List MonitorId :=
  (indices 102).filter (fun m => decide ((q.monitors.get m).state = .failed) && (q.monitors.get m).untracked)

/-- All open episodes close in ascending number, then the untracked CLOSE records follow in ascending id (R44). -/
def State.boundaryClose (s : State) (cause : CloseCause) : State :=
  let s1 := s.episodes.byNumber.foldl (fun acc k => acc.closeEpisode k cause) s
  s.qual.untrackedFailed.foldl (fun acc m => acc.offerClose (acc.untrackedClose m cause)) s1

/-! ## The list of open episodes (R46, R47, R192) -/

/-- R192. -/
def EpisodeState.code : EpisodeState → Nat
  | .active => 1
  | .healing => 2

/-- The 32-byte episode entry (R192). -/
def Episode.entryBytes (e : Episode) : List Byte :=
  dwordBytes e.number ++ leBytes 1 e.monitor.val ++ leBytes 1 e.cls.rank ++ leBytes 1 e.state.code ++
    leBytes 1 (bitIf e.parked 0 + bitIf e.onsetQueued 1) ++ wordBytes e.ride ++
    leBytes 1 (match e.slot with | some i => i.val | none => 0xFF) ++ [0] ++ dwordBytes e.onsetClock ++
    dwordBytes e.lastFailClock ++ wordBytes e.occurrences ++ wordBytes e.suppressed ++ wordBytes e.worst ++
    List.replicate 6 0

/-- The open episodes in ascending number. -/
def Episodes.listed (p : Episodes) : List Episode := p.byNumber.filterMap (fun k => p.table.get k)

/-- The status entries of all 102 monitors, id 0 first (R26). -/
def Qualification.statusEntries (q : Qualification) : List DWord := q.monitors.cells.map Monitor.statusEntry

/-- What EPISODE_LIST copies into a window of `length` bytes: the bytes, the number of episode entries and the number
of status entries (R46). -/
def State.episodeList (s : State) (length : Nat) : List Byte × Nat × Nat :=
  let eps := s.episodes.listed
  let n := min eps.length (length / 32)
  let left := if n = eps.length then (length - 32 * n) / 4 else 0
  let entries := s.qual.statusEntries
  let m := min entries.length left
  ((eps.take n).flatMap Episode.entryBytes ++ (entries.take m).flatMap dwordBytes, n, m)

end Sys2Proof.Machine
end

