-- ==== Sys2Proof/Machine/Qualify.lean ====
section
/-! DEFINITION. The qualification unit: verdicts (R7 to R15), settings and plan entries (R21 to R25), misuse (R108),
store failures put off to the end of a step (R154), and the end of every step. -/

namespace Sys2Proof.Machine

/-! ## Settings (R24, R25) -/

/-- A counter brought between minus the pass limit and the fail limit (R24). -/
def clampCounter (g : Settings) (c : Int) : Int :=
  if (g.failLimit : Int) < c then g.failLimit else if c < -(g.passLimit : Int) then -(g.passLimit : Int) else c

/-- Adoption of a settings record by a monitor that is not FAILED (R24). -/
def Monitor.adopt (v : Monitor) (g : Settings) : Monitor :=
  if g.enable then
    match v.state with
    | .disabled | .notRun => { v with adopted := some g, state := .notRun, counter := 0 }
    | .passed | .maturing | .failed => { v with adopted := some g, counter := clampCounter g v.counter }
  else { v with adopted := some g, state := .disabled, counter := 0 }

/-- Staged settings, if present, are adopted and become absent (R25). -/
def Monitor.adoptStaged (v : Monitor) : Monitor :=
  match v.staged with
  | some g => ({ v with staged := none }).adopt g
  | none => v

/-! ## One verdict on one monitor (R10, R13) -/

/-- The counter after the fail step (R10, 1 and 2). -/
def failCounter (g : Settings) (c : Int) : Int :=
  let from0 := if g.jump ∧ c < 0 then 0 else c
  if (g.failLimit : Int) < from0 + g.failStep then g.failLimit else from0 + g.failStep

/-- The counter after the pass step (R13, 1). -/
def passCounter (g : Settings) (c : Int) : Int :=
  if c - g.passStep < -(g.passLimit : Int) then -(g.passLimit : Int) else c - g.passStep

/-- MATURING above 0, PASSED at or below (R10, R13). -/
def unfailedState (c : Int) : MonitorState := if 0 < c then .maturing else .passed

/-- An applied FAIL brings an onset (R10, 3). -/
def Monitor.isOnset (v : Monitor) (g : Settings) : Bool :=
  decide (failCounter g v.counter = g.failLimit) && decide (v.state ≠ .failed)

/-- The monitor after an applied FAIL (R10, R11, R15). -/
def Monitor.afterFail (v : Monitor) (g : Settings) (riding : Bool) : Monitor :=
  let c := failCounter g v.counter
  { v with
    counter := c
    ran := v.ran || riding
    failedThisRide := v.failedThisRide || (riding && v.isOnset g)
    state := if v.state = .failed ∨ v.isOnset g then .failed else unfailedState c }

/-- An applied PASS brings a heal (R13, 2). -/
def Monitor.isHeal (v : Monitor) (g : Settings) : Bool :=
  decide (v.state = .failed) && decide (passCounter g v.counter = -(g.passLimit : Int))

/-- The monitor after an applied PASS, a heal apart (R13, R15). -/
def Monitor.afterPass (v : Monitor) (g : Settings) (riding : Bool) : Monitor :=
  let c := passCounter g v.counter
  { v with
    counter := c
    ran := v.ran || riding
    state := if v.state = .failed then .failed else unfailedState c }

/-- The monitor leaves FAILED at a heal (R14). -/
def Monitor.heal (v : Monitor) : Monitor := ({ v with state := .passed, untracked := false }).adoptStaged

/-! ## Verdicts (R7 to R15) -/

/-- The side whose verdicts-ignored counter a monitor's verdicts count in (R8). -/
def MonitorId.side (m : MonitorId) : Side := if m.val < 48 then .engine else .brake

/-- A verdict to a DISABLED monitor (R8). -/
def State.ignoreVerdict (s : State) (m : MonitorId) : State :=
  let x := MonitorId.side m
  { s with qual := { s.qual with ignored := s.qual.ignored.set x (satInc (s.qual.ignored.get x)) } }

/-- A held FAIL (R9, R36). -/
def State.holdVerdict (s : State) (m : MonitorId) : State :=
  let s1 := s.setMonitor m { s.monitor m with held := satInc (s.monitor m).held }
  let s2 := { s1 with qual := { s1.qual with heldVerdicts := satInc s1.qual.heldVerdicts } }
  s2.updateEpisode m (fun e => { e with suppressed := satInc e.suppressed })

/-- An applied FAIL: an onset, an occurrence, or neither (R10 to R12). -/
def State.applyFail (s : State) (m : MonitorId) (g : Settings) (v : Verdict) : State :=
  let old := s.monitor m
  let s1 := s.setMonitor m (old.afterFail g s.isRiding)
  if old.state = .failed then
    s1.updateEpisode m (fun e => e.occurrence v.value s.rides.clock (failCounter g old.counter))
  else if old.isOnset g then
    s1.takeOnset
      { monitor := m, cls := g.cls, value := v.value, time := v.time, failLimit := g.failLimit,
        preFrames := g.preFrames, postFrames := g.postFrames }
  else s1

/-- An applied PASS: a heal, a change of the episode's state, or neither (R13, R14). -/
def State.applyPass (s : State) (m : MonitorId) (g : Settings) : State :=
  let old := s.monitor m
  let s1 := s.setMonitor m (old.afterPass g s.isRiding)
  if old.isHeal g then
    let s2 := s1.healEpisode m
    s2.setMonitor m (s2.monitor m).heal
  else if old.state = .failed then
    s1.updateEpisode m (fun e => { e with state := episodeStateOf (passCounter g old.counter) })
  else s1

/-- FAIL verdicts on a monitor with these settings are held (R9). -/
def State.suppressed (s : State) (g : Settings) : Bool :=
  match g.suppressor with
  | some p => decide ((s.monitor p).state = .failed)
  | none => false

/-- One verdict reaches the qualification unit (R7): discarded unless the part is READY, else ignored, held or
applied. -/
def State.takeVerdict (s : State) (m : MonitorId) (v : Verdict) : State :=
  if s.isReady then
    match (s.monitor m).adopted with
    | none => s.ignoreVerdict m
    | some g =>
      if (s.monitor m).state = .disabled then s.ignoreVerdict m
      else
        match v.kind with
        | .fail => if s.suppressed g then s.holdVerdict m else s.applyFail m g v
        | .pass => s.applyPass m g
  else s

/-- The repeats of one VERDICT slip, one uninterrupted run (R7). -/
def State.takeRun (s : State) (m : MonitorId) (v : Verdict) : Nat → State
  | 0 => s
  | n + 1 => (s.takeVerdict m v).takeRun m v n

/-! ## Verdicts of the device's own blocks (R16 to R20) -/

/-- The silence monitor of a side (R17). -/
def silenceMonitor : Side → MonitorId
  | .engine => 96
  | .brake => 97

/-- The misuse monitor of a side (R18). -/
def misuseMonitor : Side → MonitorId
  | .engine => 98
  | .brake => 99

/-- SUPPLY_DIP (R19). -/
def supplyMonitor : MonitorId := 100
/-- STORE_FAILURE (R20). -/
def storeMonitor : MonitorId := 101

/-- A FAIL from a block of the device. -/
def internalFail (value : Word) : Verdict := { kind := .fail, value := value, time := none }
/-- A PASS from a block of the device: measured value 0. -/
def internalPass : Verdict := { kind := .pass, value := 0, time := none }

/-- A misuse of a side with its cause code (R18, R108): counted in every part state, MISUSE latched in READY and
RESTARTING, the FAIL given, which R7 discards outside READY. -/
def State.misuse (s : State) (x : Side) (cause : Word) : State :=
  let s1 := { s with chains := { s.chains with misuse := s.chains.misuse.set x (satInc (s.chains.misuse.get x)) } }
  if s.takesServed then (s1.latch x .misuse).takeVerdict (misuseMonitor x) (internalFail cause) else s1

/-- A FAIL of monitor 101 with the WORN count as measured value (R20). -/
def State.storeFail (s : State) : State := s.takeVerdict storeMonitor (internalFail s.archive.wornValue)

/-- The FAILs of an archive stop reach the qualification unit (R154). -/
def State.takeStoreFails (s : State) (fails : List Word) : State :=
  fails.foldl (fun acc v => acc.takeVerdict storeMonitor (internalFail v)) s

/-- What an archive stop put off, the step having ended (R154): the write under way ends, and the FAILs are given. -/
def State.giveStoreFails (s : State) : State :=
  match s.archive.storeFails with
  | [] => s
  | v :: rest =>
    (({ s with archive := { s.archive with storeFails := [] } }).haltWrites).takeStoreFails (v :: rest)

/-- The end of a step: what an archive stop put off is given, and the status area shows the new values. -/
def State.finish (s : State) : Host.Outcome State Fault Refusal := .next s.giveStoreFails.showStatus

/-! ## Plan entries (R21 to R23) -/

/-- The settings name a suppressor. -/
def namesSuppressor (g : Option Settings) : Bool :=
  match g with
  | some v => v.suppressor.isSome
  | none => false

/-- The settings name this monitor as suppressor. -/
def suppressedBy (p : MonitorId) (g : Option Settings) : Bool :=
  match g with
  | some v => decide (v.suppressor = some p)
  | none => false

/-- Another monitor names this one as suppressor, in adopted or staged settings (R22). -/
def Qualification.namedByAnother (q : Qualification) (m : MonitorId) : Bool :=
  (indices 102).any (fun j =>
    j != m && (suppressedBy m (q.monitors.get j).adopted || suppressedBy m (q.monitors.get j).staged))

/-- The entry's suppressor keeps the one-level depth of suppression (R22). -/
def Qualification.depthLegal (q : Qualification) (m : MonitorId) (g : Settings) : Bool :=
  match g.suppressor with
  | none => true
  | some p =>
    p != m && (decide (p.val < 96) || decide (p = supplyMonitor)) &&
      !namesSuppressor (q.monitors.get p).adopted && !namesSuppressor (q.monitors.get p).staged &&
      !q.namedByAnother m

/-- What became of a plan entry (R125). -/
inductive EntryOutcome where
  | refused
  | adopted
  | staged
deriving DecidableEq, Repr

/-- A plan entry taken by the qualification unit (R21 to R23). -/
def Qualification.takeEntry (q : Qualification) (x : Side) (e : PlanEntry) : Qualification × EntryOutcome :=
  match e.settings x with
  | none => (q, .refused)
  | some (m, g) =>
    if q.depthLegal m g then
      let v := q.monitors.get m
      if v.state = .failed then
        ({ q with monitors := q.monitors.set m { v with staged := some g } }, .staged)
      else ({ q with monitors := q.monitors.set m (v.adopt g) }, .adopted)
    else (q, .refused)

/-- The entries of a table in order: the table after, the entries refused and the entries staged (R125). -/
def Qualification.takeEntries (q : Qualification) (x : Side) : List PlanEntry → Qualification × Nat × Nat
  | [] => (q, 0, 0)
  | e :: rest =>
    let r := q.takeEntry x e
    let t := r.1.takeEntries x rest
    (t.1, t.2.1 + (if r.2 = .refused then 1 else 0), t.2.2 + (if r.2 = .staged then 1 else 0))

end Sys2Proof.Machine
end

