-- ==== Sys2Proof/Machine/RideOps.lean ====
section
/-! DEFINITION. The ride boundaries: what RIDE_OPEN, RIDE_CLOSE and a RESTART while RIDING do to the monitors, the
ride unit and the archive (R64 to R80). -/

namespace Sys2Proof.Machine

/-! ## Monitors at a boundary -/

/-- The monitor is in service (R6). -/
def Monitor.enabled (v : Monitor) : Bool := decide (v.state ≠ .disabled)

/-- One monitor at step 3 of RIDE_OPEN (R69). -/
def Monitor.openReset (v : Monitor) : Monitor :=
  let cleared := { v with held := 0, ran := false, failedThisRide := false }
  if v.enabled then { cleared with state := .notRun, counter := 0, untracked := false } else cleared

/-- The persistent fields at a ride close under the adopted settings, the first case that applies (R72). -/
def Monitor.closeUpdate (v : Monitor) : Monitor :=
  match v.adopted with
  | none => v
  | some g =>
    if !v.enabled then v
    else if v.failedThisRide then
      let fails := satInc v.failRides
      { v with
        failRides := fails, cleanRides := 0, confirmed := v.confirmed || decide (g.confirmRides ≤ fails.toNat) }
    else if v.ran then
      let clean := satInc v.cleanRides
      if v.confirmed then
        if g.agingRides ≤ clean.toNat then { v with failRides := 0, cleanRides := clean, confirmed := false }
        else { v with cleanRides := clean }
      else { v with failRides := 0, cleanRides := clean }
    else v

/-- One monitor at step 5 of RIDE_CLOSE, before staged settings are adopted (R73). -/
def Monitor.closeReset (v : Monitor) : Monitor :=
  if v.enabled then { v with state := .notRun, counter := 0, untracked := false } else { v with counter := 0 }

/-- Every monitor changed by `f`. -/
def State.mapMonitors (s : State) (f : Monitor → Monitor) : State :=
  { s with qual := { s.qual with monitors := s.qual.monitors.map f } }

/-! ## Silence timers (R77 to R79) -/

/-- A timer armed at its limit with no expiries; a limit of 0 leaves it stopped (R77). -/
def armedTimer (limitMs : Nat) : SilenceTimer := { remaining := if limitMs = 0 then none else some limitMs, expiries := 0 }

/-- A stopped timer. -/
def stoppedTimer : SilenceTimer := { remaining := none, expiries := 0 }

/-- Both timers stop and both counts return to 0 (R79). -/
def State.stopTimers (s : State) : State := { s with rides := { s.rides with silence := .both stoppedTimer } }

/-- An accepted inbound append is reported to the ride unit (R78): while the side's timer runs, a PASS after expiries,
and the timer restarts. -/
def State.reportAppend (s : State) (x : Side) : State :=
  let t := s.rides.silence.get x
  match t.remaining with
  | none => s
  | some _ =>
    let s1 := { s with rides := { s.rides with silence := s.rides.silence.set x (armedTimer (s.limitMs x)) } }
    if t.expiries = 0 then s1 else s1.takeVerdict (silenceMonitor x) internalPass

/-! ## The ride summary (R74) -/

/-- A RIDE_SUMMARY record formed now. -/
def State.summaryRecord (s : State) (wipe restart : Bool) (duration : DWord) : Record :=
  { body := .summary s.rides.number false wipe restart s.rides.odometer duration s.qual.statusEntries,
    cls := .information, ride := s.rides.number, monitor := none, origin := .device, episode := 0 }

/-- A MARKER record formed now (R134, R137). -/
def State.markerRecord (s : State) (k : MarkerKind) (generation : DWord) : Record :=
  { body := .marker k generation, cls := .information, ride := s.rides.number, monitor := none, origin := .device,
    episode := 0 }

/-! ## The boundaries -/

/-- The nine steps of an accepted RIDE_OPEN (R68). -/
def State.openRide (s : State) (odometer : DWord) : State :=
  let s1 := (s.boundaryClose .rideOpen).endCaptures .truncatedRide
  let s2 := { s1 with snaps := { s1.snaps with ring := [] } }
  let s3 := (s2.mapMonitors Monitor.openReset).mapMonitors Monitor.adoptStaged
  { s3 with
    rides :=
      { state := .riding, clock := 0, number := satInc s3.rides.number, odometer := odometer,
        silence := ⟨armedTimer (s3.limitMs .engine), armedTimer (s3.limitMs .brake)⟩ }
    supply := { s3.supply with dips := 0 } }

/-- Steps 1 to 5 of a ride close, common to RIDE_CLOSE and the ride-close work of a RESTART (R71, R80). -/
def State.closeWork (s : State) (cause : CloseCause) (ended : EndCause) : State :=
  let s1 := ((s.boundaryClose cause).endCaptures ended).stopTimers
  (s1.mapMonitors Monitor.closeUpdate).mapMonitors (fun v => v.closeReset.adoptStaged)

/-- The ride state becomes PARKED. -/
def State.park (s : State) : State := { s with rides := { s.rides with state := .parked } }

/-- A slip begins to wait for records (R129). -/
def State.beginWaiting (s : State) (x : Side) (slip : Word) (k : WaitKind) : State :=
  { s with intake := { s.intake with
    waiting := s.intake.waiting ++ [{ side := x, slip := slip, kind := k, marker := none, summary := none }] } }

/-- The seven steps of an accepted RIDE_CLOSE; the slip waits for its summary (R71, R75). -/
def State.closeRide (s : State) (x : Side) (slip : Word) : State :=
  let s1 := (s.closeWork .rideClose .truncatedRide).beginWaiting x slip .rideClose
  (s1.offerFor (s1.summaryRecord false false s1.rides.clock) x slip).park

/-- The ride-close work of a RESTART taken while RIDING (R80). -/
def State.restartRide (s : State) : State :=
  let s1 := s.closeWork .restart .truncatedRestart
  (s1.offer (s1.summaryRecord false true s1.rides.clock) none).1.park

/-- The closes of a RESTART taken while PARKED (R80, R178). -/
def State.restartParked (s : State) : State := (s.boundaryClose .restart).endCaptures .truncatedRestart

end Sys2Proof.Machine
end

