-- ==== Sys2Proof/Machine/PortCommands.lean ====
section
/-! DEFINITION. The commands that a side's port takes: chain accesses (R99 to R104), notice accesses (R109), *control*
(R90, R178), accesses to addresses without a register (R189), writes of exchange memory (R86 to R88) and the port read
frames of R84. While something holds the device in reset its ports take accesses as in SCANNING, the part state from the
reset on (R86, R93; log 12). -/

namespace Sys2Proof.Machine

/-! ## Chain accesses -/

/-- INBOUND_APPEND (R99, R103). -/
def execInboundAppend (x : Side) (offset : Word) (s : State) : Host.Outcome State Fault Refusal :=
  if s.appendAccepted x offset then ((s.moveToInbound x offset).reportAppend x).finish
  else (s.misuse x 1).finish

/-- FREE_APPEND (R100, R103). -/
def execFreeAppend (x : Side) (offset : Word) (s : State) : Host.Outcome State Fault Refusal :=
  if s.appendAccepted x offset then (s.moveToFree x offset).finish
  else (s.misuse x 1).finish

/-- A free take that takes the FREE count from at or above the mark to below it (R111); `count` is the count before. -/
def crossesMark (count mark : Nat) : Bool := decide (mark ≤ count) && decide (count - 1 < mark)

/-- The head of FREE becomes HELD and its offset is the word read (R101, R111). -/
def State.takeFree (s : State) (x : Side) (slip : Word) (rest : List Word) : State :=
  let c := s.chainsOf x
  let s1 := s.withChains x { c with owner := s.ownersWith x slip .held, free := rest }
  let s2 := s1.driveOut x slip
  if crossesMark c.free.length (s.markOf x) then s2.latch x .freeLow else s2

/-- FREE_TAKE (R101). -/
def execFreeTake (x : Side) (s : State) : Host.Outcome State Fault Refusal :=
  if s.takesServed then
    match (s.chainsOf x).free with
    | [] => .next (s.driveOut x 0)
    | slip :: rest => .next (s.takeFree x slip rest)
  else .next (s.driveOut x 0)

/-- The head of RETURN becomes HELD and its offset is the word read (R102). -/
def State.takeReturn (s : State) (x : Side) (slip : Word) (rest : List Word) : State :=
  (s.withChains x { s.chainsOf x with owner := s.ownersWith x slip .held, ret := rest }).driveOut x slip

/-- RETURN_TAKE (R102). -/
def execReturnTake (x : Side) (s : State) : Host.Outcome State Fault Refusal :=
  if s.takesServed then
    match (s.chainsOf x).ret with
    | [] => .next (s.driveOut x 0)
    | slip :: rest => .next (s.takeReturn x slip rest)
  else .next (s.driveOut x 0)

/-- The wrong direction of a chain register is a read: it returns 0 (R104). -/
def wrongIsRead : ChainRegister → Bool
  | .inboundAppend | .freeAppend => true
  | .freeTake | .returnTake => false

/-- WRONG_DIRECTION_ACCESS (R104): a read returns 0, a write is discarded, and either is misuse of cause 2. -/
def execWrongDirectionAccess (x : Side) (r : ChainRegister) (s : State) : Host.Outcome State Fault Refusal :=
  let s1 := if wrongIsRead r then s.driveOut x 0 else s
  (s1.misuse x 2).finish

/-! ## Notices -/

/-- NOTICE_CLEAR (R109, R110): the flags whose bits are set are cleared, and RETURN_READY latches again at once while
RETURN is not empty. -/
def execNoticeClear (x : Side) (value : Word) (s : State) : Host.Outcome State Fault Refusal :=
  let s1 := { s with ports := s.ports.set x ((s.ports.get x).clear value) }
  if value.getLsbD 0 && !(s.chainsOf x).ret.isEmpty then .next (s1.latch x .returnReady) else .next s1

/-- NOTICE_MASK_WRITE (R109): the six enables are replaced. -/
def execNoticeMaskWrite (x : Side) (value : Word) (s : State) : Host.Outcome State Fault Refusal :=
  .next { s with ports := s.ports.set x { s.ports.get x with mask := value.setWidth 6 } }

/-! ## Control -/

/-- One side's chains at an adoption: every slip FREE, in ascending offset order (R92). -/
def Chains.filled (p : Pool) : Chains :=
  { owner := List.replicate p.count .free, free := p.slips, inbound := [], ret := [] }

/-- A valid layout takes effect (R92). -/
def State.adoptLayout (s : State) (l : Layout) : State :=
  ({ s with
    exchange := { s.exchange with layout := some l }
    chains := { s.chains with sides := ⟨.filled l.pool.engine, .filled l.pool.brake⟩ }
    startUp := { s.startUp with part := .ready, layoutResult := .ok } }).latchBoth .ready

/-- The layout area is validated as it stands, and adopted when it is valid (R90, R91); a part that is not READY stays
or becomes UNCONFIGURED when it is not. -/
def State.performAdopt (s : State) : State :=
  let l := s.exchange.readLayout
  if l.validate = .ok then s.adoptLayout l
  else { s with startUp := { s.startUp with part := .unconfigured, layoutResult := l.validate } }

/-- ADOPT (R90). -/
def execAdopt (s : State) : Host.Outcome State Fault Refusal :=
  match s.startUp.part with
  | .scanning => .next { s with startUp := { s.startUp with adoptRemembered := true } }
  | .unconfigured => s.performAdopt.finish
  | .ready => ({ s with startUp := { s.startUp with layoutResult := .already } }).finish
  | .restarting => .next s

/-- An empty filing queue ends the RESTART drain, and the reset of kind RESTART is taken (R178). What the step has
changed is shown in the status area first, which the reset keeps (R84, R94). -/
def State.endDrain (s : State) (cut : Cut) : State :=
  if s.startUp.part = .restarting ∧ s.archive.queue = [] then s.showStatus.restartReset (s.cutOff cut) else s

/-- Running read jobs end where they stand, without an answer (R173). -/
def State.dropJobs (s : State) : State := { s with archive := { s.archive with jobs := .both none } }

/-- The four steps of a RESTART taken in READY (R178). -/
def State.beginRestart (s : State) : State :=
  let s1 := { s with startUp := { s.startUp with part := .restarting } }
  let s2 := (if s1.isRiding then s1.restartRide else s1.restartParked).dropJobs
  { s2 with startUp := { s2.startUp with drain := some Config.drainMs } }

/-- RESTART (R178): ignored outside READY (R93). The read jobs have yielded to a vacating that it falls into (R170). -/
def execRestart (cut : Cut) (s : State) : Host.Outcome State Fault Refusal :=
  if s.isReady then ((s.yieldVacating cut).beginRestart.endDrain cut).finish else .next s

/-! ## Addresses without a register -/

/-- UNASSIGNED_REGISTER_ACCESS (R189): a read returns 0, a write is discarded, and either is misuse of cause 3. -/
def execUnassignedRegisterAccess (x : Side) (address : Word) (d : Direction) (s : State) :
    Host.Outcome State Fault Refusal :=
  if isUnassigned x address then
    let s1 := if d = .read then s.driveOut x 0 else s
    (s1.misuse x 3).finish
  else .refused .illFormed

/-! ## Exchange memory -/

/-- The side's port notes whether its write frame has been counted as misuse (R88). -/
def State.markFrame (s : State) (x : Side) (b : Bool) : State :=
  { s with ports := s.ports.set x { s.ports.get x with frameMisused := b } }

/-- What becomes of a word written by a side (R86, R87, R95). -/
inductive WriteFate where
  | written
  | discarded
  | misuse
deriving DecidableEq, Repr

/-- R95 during the clearing, R86 before adoption, R87 after it. -/
def State.writeFate (s : State) (x : Side) (a : Nat) : WriteFate :=
  if s.startUp.phase = .clearing then .discarded
  else
    match s.exchange.layout with
    | none => if inStatusArea a then .discarded else .written
    | some l => if l.mayWrite x a then .written else .misuse

/-- One word of a write frame: written or discarded, and the frame's first discarded word after adoption is its one
misuse, of cause 4 (R88). -/
def State.writeFrameWord (s : State) (x : Side) (a : Nat) (w : Word) : State :=
  match s.writeFate x a with
  | .written => { s with exchange := s.exchange.writeWord a w }
  | .discarded => s
  | .misuse => if (s.ports.get x).frameMisused then s else (s.markFrame x true).misuse x 4

/-- The words of a frame in order, each at the address 2 above the one before (R188). -/
def State.writeFrame (s : State) (x : Side) : Nat → List Word → State
  | _, [] => s
  | a, w :: rest => (s.writeFrameWord x a w).writeFrame x (a + 2) rest

/-- EXCHANGE_MEMORY_WRITE (R87). -/
def execExchangeMemoryWrite (x : Side) (continued : Bool) (address : Word) (data : List Word) (s : State) :
    Host.Outcome State Fault Refusal :=
  if (Instr.exchangeMemoryWrite x continued address data).wellFormed then
    let s1 := if continued then s else s.markFrame x false
    (s1.writeFrame x (evenAddress address).toNat data).finish
  else .refused .illFormed

/-- The side's read frame ends, and the changes held off are written where no other frame holds them off (R84). -/
def State.endReadFrame (s : State) (x : Side) : State :=
  ({ s with ports := s.ports.set x { s.ports.get x with readFrame := none } }).showStatus

/-- STATUS_FIELD_DEFERRED_WRITE (R84): the side's read frame ends, or a frame of the side begins, the one before it
having ended. -/
def execStatusFieldDeferredWrite (x : Side) (edge : ReadFrameEdge) (s : State) : Host.Outcome State Fault Refusal :=
  if (Instr.statusFieldDeferredWrite x edge).wellFormed then
    let s1 := s.endReadFrame x
    match edge with
    | .begins start words =>
      .next { s1 with ports := s1.ports.set x { s1.ports.get x with readFrame := some (evenAddress start, words) } }
    | .ends => .next s1
  else .refused .illFormed

end Sys2Proof.Machine
end

