-- ==== Sys2Proof/Machine/ArchiveOps.lean ====
section
/-! DEFINITION. What the archive unit changes: the always-carried choice, head advance and preparation (R160, R161), and
what commits, WORN marks and vacating change (R150, R152, R158, R163). -/

namespace Sys2Proof.Machine

/-! ## The always-carried choice -/

/-- The highest sequence among records, if there is one. -/
def highestSequence (rs : List Stored) : Option DWord :=
  rs.foldl (fun best r => match best with
    | none => some r.sequence
    | some q => if q < r.sequence then some r.sequence else some q) none

/-- The always-carried records chosen again among the records still present (R144, R152, R158, R163). -/
def Archive.chooseCarried (a : Archive) : Archive :=
  let present := a.liveRecords.filter a.isPresent
  { a with
    newestSummary := highestSequence (present.filter (fun r => decide (r.kind = .summary)))
    newestRelease := highestSequence (present.filter (fun r => r.isMarker a.array .release))
    newestWipe := highestSequence (present.filter (fun r => r.isMarker a.array .wipe)) }

/-- The lengths of records, each sequence counted once: an original and its copy count once between them (R156). -/
def lengthsOnce : List Stored → Nat
  | [] => 0
  | r :: rest => (if rest.any (fun q => q.sequence == r.sequence) then 0 else r.length) + lengthsOnce rest

/-! ## Ring order -/

/-- The first segment from `i` on, in ring order, that is not WORN; `fuel` segments are looked at. -/
def Archive.firstUsable (a : Archive) : Nat → Fin 16 → Option (Fin 16)
  | 0, _ => none
  | fuel + 1, i => if (a.segments.get i).state = .worn then a.firstUsable fuel (i + 1) else some i

/-- The segment that the head enters next: the first after the head segment that is not WORN, or the first of all
while there is no head segment (R160, R180). -/
def Archive.nextSegment (a : Archive) : Option (Fin 16) :=
  match a.head with
  | some h => a.firstUsable 15 (h.segment + 1)
  | none => a.firstUsable 16 0

/-- A segment table entry changed. -/
def Archive.setSegment (a : Archive) (i : Fin 16) (st : SegmentState) (q : DWord) : Archive :=
  { a with segments := a.segments.set i ⟨st, q⟩ }

/-! ## The write path (R166) -/

/-- The write path has a pending item, or one under way (R166). -/
def Archive.writePending (a : Archive) : Bool :=
  decide (a.state = .running) &&
    (a.busy || a.stopUnitMissing || a.preparation.isSome || !a.queue.isEmpty)

/-- Units written into the array, and noted as the work under way. -/
def Archive.begin (a : Archive) (item : WorkItem) (marks : Nat) (entry : Option Entry) (writes : List (Nat × Unit64)) :
    Archive :=
  let r := performWrites a.array writes
  { a with
    array := r.1
    work := some { item := item, marks := marks, entry := entry, writes := r.2, suspended := false } }

/-- The writes under way are cut off by the store lockout (R176). A vacating whose header is cut off is still to come:
its preparation stays pending and its target LIVE. An entry has got as far as its units. -/
def State.suspendWrites (s : State) (cut : Cut) : State :=
  let y := s.yieldVacating cut
  y.withArchive { y.archive.cutEntry cut.done with
    array := s.cutOff cut, work := s.archive.work.bind (fun w => w.cutAt cut) }

/-! ## Head advance (R160, R161) -/

/-- The preparation that an entry begins: pending on a LIVE target, ended at once otherwise (R161). -/
def Archive.beginPreparation (a : Archive) : Option Preparation :=
  match a.nextSegment with
  | none => none
  | some t =>
    if (a.segments.get t).state = .live then some { target := t, position := Config.recordArea, givenUp := [] }
    else none

/-- The entry of segment `i` that an advance would make now (R160). -/
def Archive.entryTo (a : Archive) (i : Fin 16) : Entry :=
  { segment := i, number := a.segmentCounter, left := a.head, was := a.segments.get i, headerHeld := false }

/-- The two units that an entry writes, once each and without a read-back: they take exactly these contents unless they
are cut off, so that no failing cell spoils them (R160; the model's choice, log 35). -/
def Entry.units (e : Entry) : List (Nat × Unit64) :=
  [headerUnit e.segment .live (BitVec.ofNat 32 e.number), stopUnit e.segment Config.recordArea]

/-- What an entry does to the archive unit (R160, 2 to 5): the table and the counter, the head, the counts and the
preparation. A cut-off takes back what lies behind the unit that it tore (`Archive.cutEntry`). -/
def Archive.enter (a : Archive) (e : Entry) : Archive :=
  let a1 := { a.setSegment e.segment .live (BitVec.ofNat 32 e.number) with
    segmentCounter := e.number + 1, head := some ⟨e.segment, Config.recordArea⟩, stopUnitMissing := false
    entering := none }
  { a1 with preparation := a1.beginPreparation }

/-- The head advances (R160): the state after and the entry made; none when the archive stopped, its segment sequence
counter being exhausted, or when no segment is left. An advance is a grant, so the units of the one before are whole. -/
def State.advance (s : State) : State × Option Entry :=
  if Config.counterEnd ≤ s.archive.segmentCounter then
    ((s.withArchive { s.archive with work := none }).archiveStop false, none)
  else
    match s.archive.nextSegment with
    | none => (s, none)
    | some i => let e := s.archive.entryTo i; (s.withArchive (s.archive.enter e), some e)

/-- The units of an entry that may have been made. -/
def entryUnits (e : Option Entry) : List (Nat × Unit64) :=
  match e with
  | none => []
  | some v => v.units

/-- The record fits at the head (R149). -/
def Archive.fits (a : Archive) (length : Nat) : Bool :=
  match a.head with
  | some h => decide (h.offset + length ≤ Config.segmentBytes)
  | none => false

/-- The units of the record of a descriptor at the head. -/
def State.recordUnits (s : State) (d : Descriptor) : List (Nat × Unit64) :=
  match s.archive.head with
  | some h => recordWrites h.segment h.offset (d.bytes s.snaps.slots)
  | none => []

/-! ## Verified writes -/

/-- The units of a verified write but its commit word. -/
def phaseOne (ws : List UnitWrite) : List UnitWrite := ws.dropLast

/-- The array after a verify failure (R151, R162): in phase 1 the commit word is not written and the wrong bits stand;
in phase 2 the commit word stands wrong. None when every unit compares. -/
def failedArray (w : Work) (flips : List Unit64) (m : Memory) : Option Memory :=
  let ws := w.writes.drop w.front
  let body := phaseOne ws
  let last := ws.drop body.length
  if failsToCompare (flips.take body.length) then
    some (misread body flips (stopWrites 0 last m))
  else if failsToCompare ((flips.drop body.length).take last.length) then
    some (misread last (flips.drop body.length) m)
  else none

/-! ## Commit (R150, R158) -/

/-- The head moves past what was written at it. -/
def Archive.advanceHead (a : Archive) (length : Nat) : Archive :=
  { a with head := a.head.map (fun h => { h with offset := h.offset + length }) }

/-- What the commit of a RIDE_SUMMARY or a MARKER changes (R144, R150, R158): the newest of its kind; a WIPE marker
sets the wipe sequence, the pinned bytes fall by what becomes absent, and the choice is made again. -/
def Archive.noteCommit (a : Archive) (d : Descriptor) : Archive :=
  match d.record.body with
  | .summary .. => { a with newestSummary := some d.sequence }
  | .marker .release _ => { a with newestRelease := some d.sequence }
  | .marker .wipe _ =>
    let lost := a.liveRecords.filter (fun r => a.countsStored r && decide (r.sequence < d.sequence))
    ({ a with wipeSequence := d.sequence, pinnedBytes := a.pinnedBytes - lengthsOnce lost }).chooseCarried
  | .onset .. | .close .. | .snapshot _ => a

/-! ## WORN and vacating (R152, R163) -/

/-- The head segment is marked WORN (R152): the table, the header unit to write, the pinned bytes of its records, and
the choice of always-carried records. -/
def Archive.wear (a : Archive) (h : Head) : Archive × List (Nat × Unit64) :=
  let q := (a.segments.get h.segment).sequence
  let lost := (a.recordsOf h.segment).filter a.countsStored
  (({ a.setSegment h.segment .worn q with pinnedBytes := a.pinnedBytes - lengthsOnce lost }).chooseCarried,
    [headerUnit h.segment .worn q])

/-- The target is vacated (R163): the table, the pinned bytes of the carries given up, and the choice of always-carried
records. -/
def Archive.vacateTarget (a : Archive) (p : Preparation) : Archive :=
  let q := (a.segments.get p.target).sequence
  let lost := (a.recordsOf p.target).filter (fun r => p.givenUp.contains r.offset && a.countsStored r)
  let a1 := { a.setSegment p.target .vacant q with
    pinnedBytes := a.pinnedBytes - lengthsOnce lost
    disregarded := a.disregarded.filter (fun d => d.1 != p.target)
    preparation := none }
  if p.givenUp.isEmpty then a1 else a1.chooseCarried

/-- The oldest queued record does not fit at the head (R164). -/
def State.oldestDoesNotFit (s : State) : Bool :=
  match s.archive.queue with
  | [] => false
  | d :: _ => !s.archive.fits (d.length s.snaps.slots)

end Sys2Proof.Machine
end

