-- ==== Sys2Proof/Machine/Requests.lean ====
section
/-! DEFINITION. The commands of the intake unit: one decode of the slip that the round robin chooses (R105, R113 to
R137). A command whose kind is not that of the slip chosen does nothing, since the slip decides what is decoded
(log 2). -/

namespace Sys2Proof.Machine

/-! ## Intake (R105, R113, R114) -/

/-- The side intake serves next, if an INBOUND chain holds a slip (R113). -/
def State.servedSide (s : State) : Option Side :=
  match (s.chainsOf .engine).inbound.isEmpty, (s.chainsOf .brake).inbound.isEmpty with
  | true, true => none
  | false, true => some .engine
  | true, false => some .brake
  | false, false => some s.intake.pointer

/-- The slip intake removes next: the head of the served side's INBOUND chain, while the part is READY. -/
def State.nextSlip (s : State) : Option (Side × Word) :=
  if s.isReady then
    match s.servedSide with
    | none => none
    | some x => (s.chainsOf x).inbound.head?.map (fun slip => (x, slip))
  else none

/-- One decode: when the next slip is of this kind, it is removed from INBOUND and handled, and the step ends. -/
def State.decode (s : State) (k : SlipKind) (handle : State → Side → Word → State) :
    Host.Outcome State Fault Refusal :=
  match s.nextSlip with
  | none => .next s
  | some (x, slip) =>
    if slipKind (s.slipWord slip 0) = k then (handle (s.moveToWork x slip) x slip).finish else .next s

/-- A VERDICT or CONTEXT slip answered BAD_FIELD: the answer, the misuse with cause 5, the completion (R119). -/
def State.malformed (s : State) (x : Side) (slip : Word) (detail cause : Word) : State :=
  ((s.writeAnswer slip .badField detail 0).misuse x cause).moveToReturn x slip

/-! ## Fire and forget -/

/-- A VERDICT slip in decode (R120, R121). -/
def State.handleVerdict (s : State) (x : Side) (slip : Word) : State :=
  match s.verdictFields x slip with
  | .error detail => s.malformed x slip detail 5
  | .ok (m, v, repeats) => (s.takeRun m v repeats).moveToFree x slip

/-- VERDICT (R121). -/
def execVerdict (s : State) : Host.Outcome State Fault Refusal := s.decode .verdict State.handleVerdict

/-- A CONTEXT slip in decode (R122). -/
def State.handleContext (s : State) (x : Side) (slip : Word) : State :=
  match s.contextFrame x slip with
  | .error detail => s.malformed x slip detail 5
  | .ok f => (s.takeFrame f).moveToFree x slip

/-- CONTEXT (R122). -/
def execContext (s : State) : Host.Outcome State Fault Refusal := s.decode .context State.handleContext

/-- A slip of unknown kind in decode: BAD_FIELD with the kind value, misuse with cause 6 (R116). -/
def State.handleUnknown (s : State) (x : Side) (slip : Word) : State := s.malformed x slip (s.slipWord slip 0) 6

/-- UNKNOWN_KIND (R116). -/
def execUnknownKind (s : State) : Host.Outcome State Fault Refusal := s.decode .unknown State.handleUnknown

/-! ## Answered in decode -/

/-- Handling that needs the adopted layout, which every READY part has (R92). -/
def State.withLayout (s : State) (f : Layout → State) : State :=
  match s.exchange.layout with
  | some l => f l
  | none => s

/-- The entries of an accepted plan table taken, and the slip answered (R125). -/
def State.takePlan (s : State) (x : Side) (slip : Word) (offset count : Nat) : State :=
  let r := s.qual.takeEntries x (s.exchange.planTable offset count)
  ({ s with qual := r.1 }).answer x slip .ok (BitVec.ofNat 16 r.2.1) (BitVec.ofNat 16 r.2.2)

/-- A PLAN slip in decode (R124, R125). -/
def State.handlePlan (s : State) (x : Side) (slip : Word) : State :=
  let offset := (s.slipWord slip 16).toNat
  let count := (s.slipWord slip 18).toNat
  if count < 1 ∨ 48 < count then s.answer x slip .badField 1 0
  else s.withLayout fun l =>
    match l.checkTable x offset count with
    | .error detail => s.answer x slip .windowFault detail 0
    | .ok () => s.takePlan x slip offset count

/-- PLAN (R125). -/
def execPlan (s : State) : Host.Outcome State Fault Refusal := s.decode .plan State.handlePlan

/-- The list copied into the window, and the slip answered OK or PARTIAL (R46, R47). -/
def State.copyList (s : State) (x : Side) (slip : Word) (offset length : Nat) : State :=
  let r := s.episodeList length
  let whole := decide (r.2.1 = s.episodes.openCount) && decide (r.2.2 = 102)
  ({ s with exchange := s.exchange.writeBytes offset r.1 }).answer x slip (if whole then .ok else .partially)
    (BitVec.ofNat 16 r.2.1) (BitVec.ofNat 16 r.2.2)

/-- An EPISODE_LIST slip in decode (R123, R126). -/
def State.handleEpisodeList (s : State) (x : Side) (slip : Word) : State :=
  let offset := (s.slipWord slip 16).toNat
  let length := (s.slipWord slip 18).toNat
  s.withLayout fun l =>
    match l.checkWindow x offset length with
    | .error detail => s.answer x slip .windowFault detail 0
    | .ok () => s.copyList x slip offset length

/-- EPISODE_LIST (R126). -/
def execEpisodeList (s : State) : Host.Outcome State Fault Refusal := s.decode .episodeList State.handleEpisodeList

/-- A RIDE_OPEN slip in decode (R117, R127, R68). -/
def State.handleRideOpen (s : State) (x : Side) (slip : Word) : State :=
  if x = .brake then s.answer x slip .refusedSide 0 0
  else if s.isRiding then s.answer x slip .refusedState 0 0
  else
    let s1 := s.openRide (s.slipDword slip 16)
    s1.answer x slip .ok s1.rides.number 0

/-- RIDE_OPEN (R68). -/
def execRideOpen (s : State) : Host.Outcome State Fault Refusal := s.decode .rideOpen State.handleRideOpen

/-! ## Answered later -/

/-- A RIDE_CLOSE slip in decode (R117, R128, R71). -/
def State.handleRideClose (s : State) (x : Side) (slip : Word) : State :=
  if x = .brake then s.answer x slip .refusedSide 0 0
  else if s.isRiding then s.closeRide x slip
  else s.answer x slip .refusedState 0 0

/-- RIDE_CLOSE (R71). -/
def execRideClose (s : State) : Host.Outcome State Fault Refusal := s.decode .rideClose State.handleRideClose

/-- The LIVE segments' sequences above a bound: the lowest, if there is one. -/
def Archive.nextLive (a : Archive) (low : Nat) : Option DWord :=
  (a.segments.cells.filter (fun g => g.state == .live && decide (low < g.sequence.toNat))).foldl
    (fun best g => match best with
      | none => some g.sequence
      | some b => if g.sequence < b then some g.sequence else some b) none

/-- The sequence of the oldest LIVE segment. -/
def Archive.oldestLive (a : Archive) : Option DWord :=
  (a.segments.cells.filter (fun g => g.state == .live)).foldl
    (fun best g => match best with
      | none => some g.sequence
      | some b => if g.sequence < b then some g.sequence else some b) none

/-- The LIVE segment of a sequence; of two that hold the same one, the lower-numbered (the model's choice, log 37). -/
def Archive.liveSegment (a : Archive) (q : DWord) : Option (Fin 16) :=
  (indices 16).find? (fun i => (a.segments.get i).state == .live && (a.segments.get i).sequence == q)

/-- The first position of a read job, and whether gap is set (R168; log 19 where no segment is LIVE). -/
def Archive.startPosition (a : Archive) (sequence : DWord) (offset : Nat) : DWord × Nat × Bool :=
  if sequence = 0 then
    match a.oldestLive with
    | some q => (q, Config.recordArea, false)
    | none => (0, Config.recordArea, false)
  else if (a.liveSegment sequence).isSome then (sequence, offset, false)
  else
    match a.nextLive sequence.toNat with
    | some q => (q, Config.recordArea, true)
    | none => (sequence, offset, false)

/-- The read job of an accepted request (R168). -/
def Archive.newJob (a : Archive) (slip : Word) (r : ReadRequest) : Job :=
  let p := a.startPosition r.sequence r.offset
  { slip := slip, windowOffset := r.windowOffset, windowLength := r.windowLength, kinds := r.kinds,
    classes := r.classes, lowestRide := r.lowestRide, sequence := p.1, offset := p.2.1, bytesWritten := 0,
    recordsCopied := 0, gap := p.2.2, partDone := false }

/-- An ARCHIVE_READ whose fields and window pass (R132). -/
def State.startRead (s : State) (x : Side) (slip : Word) (r : ReadRequest) : State :=
  if (s.archive.jobs.get x).isSome ∨ s.intake.wipeWaiting then s.answer x slip .busy 0 0
  else if s.archive.state = .stopped then s.answer x slip .aborted 0 0
  else { s with archive := { s.archive with jobs := s.archive.jobs.set x (some (s.archive.newJob slip r)) } }

/-- An ARCHIVE_READ slip in decode (R131, R123, R132). -/
def State.handleArchiveRead (s : State) (x : Side) (slip : Word) : State :=
  let r := s.readRequest slip
  match r.fault with
  | some detail => s.answer x slip .badField detail 0
  | none =>
    s.withLayout fun l =>
      match l.checkWindow x r.windowOffset r.windowLength with
      | .error detail => s.answer x slip .windowFault detail 0
      | .ok () => s.startRead x slip r

/-- ARCHIVE_READ (R132). -/
def execArchiveRead (s : State) : Host.Outcome State Fault Refusal := s.decode .archiveRead State.handleArchiveRead

/-- An accepted RELEASE_PINNED (R134): the marker carries a generation one above the current one. -/
def State.release (s : State) (x : Side) (slip : Word) : State :=
  let s1 := s.beginWaiting x slip .release
  s1.offerFor (s1.markerRecord .release (s1.archive.pinGeneration + 1)) x slip

/-- A RELEASE_PINNED slip in decode (R117, R133, R134). -/
def State.handleRelease (s : State) (x : Side) (slip : Word) : State :=
  if x = .brake then s.answer x slip .refusedSide 0 0
  else if s.isRiding then s.answer x slip .refusedState 0 0
  else if s.archive.state = .stopped then s.answer x slip .storeStopped 0 0
  else s.release x slip

/-- RELEASE_PINNED (R134). -/
def execReleasePinned (s : State) : Host.Outcome State Fault Refusal := s.decode .releasePinned State.handleRelease

/-- A monitor with its persistent fields at 0, 0 and clear (R4, R137). -/
def Monitor.forget (v : Monitor) : Monitor := { v with failRides := 0, cleanRides := 0, confirmed := false }

/-- The four steps of an accepted ARCHIVE_WIPE (R137). -/
def State.wipe (s : State) (x : Side) (slip : Word) : State :=
  let s0 := s.beginWaiting x slip .wipe
  let s1 := { s0 with intake := { s0.intake with wipeWaiting := true } }
  let s2 := (s1.offerFor (s1.markerRecord .wipe s1.archive.pinGeneration) x slip).mapMonitors Monitor.forget
  s2.offerFor (s2.summaryRecord true false 0) x slip

/-- An ARCHIVE_WIPE slip in decode, its checks in order (R117, R136). -/
def State.handleWipe (s : State) (x : Side) (slip : Word) : State :=
  if x = .brake then s.answer x slip .refusedSide 0 0
  else if s.isRiding then s.answer x slip .refusedState 1 0
  else if s.episodes.openCount ≠ 0 then s.answer x slip .refusedState 2 0
  else if s.archive.jobs.engine.isSome ∨ s.archive.jobs.brake.isSome then s.answer x slip .busy 1 0
  else if s.intake.wipeWaiting then s.answer x slip .busy 2 0
  else if s.archive.state = .stopped then s.answer x slip .storeStopped 0 0
  else s.wipe x slip

/-- ARCHIVE_WIPE (R137). -/
def execArchiveWipe (s : State) : Host.Outcome State Fault Refusal := s.decode .archiveWipe State.handleWipe

end Sys2Proof.Machine
end

