-- ==== Sys2Proof/Machine/StoreCommands.lean ====
section
/-! DEFINITION. The commands of the store arbiter: writing queued records (R149 to R153), carries and vacating (R162 to
R164), the stop unit after a scan (R181), and read job steps (R167 to R172). A grant that R166 would not give does
nothing: the arbiter waits (log 2). -/

namespace Sys2Proof.Machine

/-! ## Queued records -/

/-- Units written whole, with nothing noted as under way. -/
def State.writeOut (s : State) (ws : List (Nat × Unit64)) : State :=
  s.withArchive { s.archive with array := (performWrites s.archive.array ws).1 }

/-- The grant of a record that does not fit: the head advances, and the record is written in the new segment unless
the advance left a preparation pending or stopped the archive (R149, R160; log 17). -/
def State.grantEntry (s : State) (d : Descriptor) : State :=
  let r := s.advance
  let s1 := r.1
  if s1.archive.state = .stopped then s1
  else if s1.archive.preparation.isSome || !s1.archive.fits (d.length s1.snaps.slots) then
    s1.withArchive (s1.archive.begin .steps 0 r.2 (entryUnits r.2))
  else s1.withArchive (s1.archive.begin .record 0 r.2 (entryUnits r.2 ++ s1.recordUnits d))

/-- The grant of the oldest queued record (R149). -/
def State.grantRecord (s : State) (d : Descriptor) : State :=
  let s1 := s.yieldJobs
  if s1.archive.fits (d.length s1.snaps.slots) then
    s1.withArchive (s1.archive.begin .record 0 none (s1.recordUnits d))
  else s1.grantEntry d

/-- RECORD_WRITE_GRANT (R149, R160). -/
def execRecordWriteGrant (s : State) : Host.Outcome State Fault Refusal :=
  if s.mayWrite && !s.archive.stopUnitMissing && s.archive.preparation.isNone then
    match s.archive.queue with
    | [] => .next s
    | d :: _ => ((s.grantRecord d).endDrain ⟨0, 0⟩).finish
  else .next s

/-- A record write under way whose end the array decides: the work and the descriptor. -/
def Archive.recordWork (a : Archive) : Option (Work × Descriptor) :=
  match a.work, a.queue with
  | some w, d :: _ => if w.item = .record ∧ !w.suspended then some (w, d) else none
  | _, _ => none

/-- The commit of the record in hand (R150). -/
def State.commitRecord (s : State) (d : Descriptor) : State :=
  let a := { s.archive with queue := s.archive.queue.tail, work := none }
  let a1 := (a.advanceHead (d.length s.snaps.slots)).noteCommit d
  (s.withArchive a1).tellFate d .committed

/-- RECORD_COMMIT (R150). -/
def execRecordCommit (s : State) : Host.Outcome State Fault Refusal :=
  match s.archive.recordWork with
  | none => .next s
  | some (_, d) => ((s.commitRecord d).endDrain ⟨0, 0⟩).finish

/-- The oldest descriptor's attempt changed. -/
def Archive.withAttempt (a : Archive) (t : Attempt) : Archive :=
  match a.queue with
  | d :: rest => { a with queue := { d with attempt := t } :: rest }
  | [] => a

/-- A first failure: the record is written again in place (R151). -/
def State.rewriteRecord (s : State) (d : Descriptor) (array : Memory) : State :=
  let a := ({ s.archive with array := array }).withAttempt .retry
  s.withArchive (a.begin .record 0 none (s.recordUnits d))

/-- The head after a WORN mark advances (R152, 5), an entry being a grant of its own, to which the read jobs yield (R166,
R170). The units of the mark and of the entry are under way together, the mark first; where the archive has stopped, the
mark's header is whole and nothing is under way (the model's choice, log 26). -/
def State.leaveWorn (s : State) (mark : List (Nat × Unit64)) : State :=
  if s.archive.state = .stopped then s.writeOut mark
  else
    let r := s.yieldJobs.advance
    if r.1.archive.state = .stopped then r.1.writeOut mark
    else r.1.withArchive (r.1.archive.begin .steps mark.length r.2 (mark ++ entryUnits r.2))

/-- A failure with attempt RETRY: the head segment is marked WORN (R152). The header of a fifth mark is written whole
before the archive stops, and no LOW entry or reset cuts it off (the model's choice, log 26). -/
def State.wearHead (s : State) (h : Head) (array : Memory) : State :=
  let r := ({ s.archive with array := array, work := none }).wear h
  let s1 := (s.withArchive r.1).latchBoth .archiveAlert
  if Config.wornLimit ≤ s1.archive.count .worn then (s1.writeOut r.2).archiveStop true
  else ((s1.withArchive (s1.archive.withAttempt .moved)).storeFail).leaveWorn r.2

/-- A failure with attempt MOVED: the record is given up (R153). -/
def State.giveUpRecord (s : State) (d : Descriptor) (array : Memory) : State :=
  let a := { s.archive with array := array, work := none, queue := s.archive.queue.tail }
  ((((s.withArchive a).countGiveUp d).storeFail).tellFate d .givenUp)

/-- A verify failure of the record in hand, by its attempt (R151 to R153). -/
def State.failRecord (s : State) (d : Descriptor) (array : Memory) : State :=
  match d.attempt, s.archive.head with
  | .first, _ => s.rewriteRecord d array
  | .retry, some h => s.wearHead h array
  | .retry, none => s.giveUpRecord d array
  | .moved, _ => s.giveUpRecord d array

/-- VERIFY_FAILURE (R151). -/
def execVerifyFailure (flips : List Unit64) (s : State) : Host.Outcome State Fault Refusal :=
  if failsToCompare flips then
    match s.archive.recordWork with
    | none => .next s
    | some (w, d) =>
      match failedArray w flips s.archive.array with
      | none => .next s
      | some array => ((s.failRecord d array).endDrain ⟨0, 0⟩).finish
  else .refused .illFormed

/-! ## Carries -/

/-- A preparation whose next carry is granted: the carry's record and the head (R161, R162). -/
def Archive.carryPending (a : Archive) : Option (Preparation × Stored × Head) :=
  match a.preparation, a.head with
  | some p, some h => (a.nextCarry p).map (fun r => (p, r, h))
  | _, _ => none

/-- The copy of a record is written at the head (R162). -/
def State.writeCopy (s : State) (p : Preparation) (r : Stored) (h : Head) (retry : Bool) : State :=
  let a := { s.archive with preparation := some { p with position := r.offset } }
  s.withArchive (a.begin (.carry r.offset retry) 0 none (recordWrites h.segment h.offset (r.copyBytes a.array)))

/-- CARRY_WRITE (R162). -/
def execCarryWrite (s : State) : Host.Outcome State Fault Refusal :=
  if s.mayWrite && !s.archive.stopUnitMissing then
    match s.archive.carryPending with
    | none => .next s
    | some (p, r, h) => (s.yieldJobs.writeCopy p r h false).finish
  else .next s

/-- A carry under way whose end the array decides: the work, whether it is the second attempt, the preparation, the
original and the head. -/
def Archive.carryWork (a : Archive) : Option (Work × Bool × Preparation × Stored × Head) :=
  match a.work, a.preparation, a.head with
  | some w, some p, some h =>
    match w.item with
    | .carry source retry =>
      if w.suspended then none
      else (recordAt a.array p.target source).map (fun r => (w, retry, p, r, h))
    | .steps | .record => none
  | _, _, _ => none

/-- The preparation with its walk past a record. -/
def Preparation.past (p : Preparation) (r : Stored) : Preparation := { p with position := r.offset + r.length }

/-- CARRY_COMMIT (R162). -/
def execCarryCommit (s : State) : Host.Outcome State Fault Refusal :=
  match s.archive.carryWork with
  | none => .next s
  | some (_, _, p, r, _) =>
    let a := { s.archive with preparation := some (p.past r), work := none }
    (s.withArchive (a.advanceHead r.length)).finish

/-- A second failure of a carry: the carry is given up (R162). -/
def State.giveUpCarry (s : State) (p : Preparation) (r : Stored) (array : Memory) : State :=
  let p' := { p.past r with givenUp := p.givenUp ++ [r.offset] }
  ((s.withArchive { s.archive with array := array, preparation := some p', work := none }).countDrop).storeFail

/-- CARRY_VERIFY_FAILURE (R162). -/
def execCarryVerifyFailure (flips : List Unit64) (s : State) : Host.Outcome State Fault Refusal :=
  if failsToCompare flips then
    match s.archive.carryWork with
    | none => .next s
    | some (w, retry, p, r, h) =>
      match failedArray w flips s.archive.array with
      | none => .next s
      | some array =>
        if retry then (s.giveUpCarry p r array).finish
        else ((s.withArchive { s.archive with array := array }).writeCopy p r h true).finish
  else .refused .illFormed

/-! ## Vacating -/

/-- The head advances again because the oldest record does not fit after a preparation (R164). -/
def State.carryStall (s : State) : State :=
  let r := s.advance
  if r.1.archive.state = .stopped then r.1
  else
    let a := { r.1.archive with carryStalls := satInc r.1.archive.carryStalls }
    r.1.withArchive (a.begin .steps 0 r.2 (entryUnits r.2))

/-- The vacating header has been written, the target is vacated, and the head advances further when the oldest record
does not fit (R163, R164; the header takes exactly its contents, log 35). -/
def State.vacate (s : State) (p : Preparation) : State :=
  let a := { s.archive.vacateTarget p with work := none }
  let s1 := (s.withArchive a).writeOut [s.archive.vacantHeader p]
  if s1.oldestDoesNotFit then s1.carryStall else s1

/-- VACATE (R163, R164): the end of a vacating, which is granted when the walk of the target finds nothing more to carry.
A LOW entry or a reset during the vacating comes before it (log 33). -/
def execVacate (s : State) : Host.Outcome State Fault Refusal :=
  if s.mayWrite && !s.archive.stopUnitMissing then
    match s.archive.preparation with
    | none => .next s
    | some p =>
      if (s.archive.nextCarry p).isSome then .next s
      else ((s.yieldJobs.vacate p).endDrain ⟨0, 0⟩).finish
  else .next s

/-- The stop unit of R181 is written at the head; it takes exactly its contents (log 35). -/
def State.writeScanStop (s : State) (h : Head) : State :=
  let a := { s.archive with stopUnitMissing := false }
  s.withArchive (a.begin .steps 0 none [stopUnit h.segment h.offset])

/-- SCAN_STOP_UNIT_WRITE (R181). -/
def execScanStopUnitWrite (s : State) : Host.Outcome State Fault Refusal :=
  if s.mayWrite && s.archive.stopUnitMissing then
    match s.archive.head with
    | none => .next s
    | some h => (s.yieldJobs.writeScanStop h).finish
  else .next s

/-! ## Read jobs -/

/-- The side whose job is granted a step (R167). -/
def Archive.readSide (a : Archive) : Option Side :=
  match a.jobs.engine.isSome, a.jobs.brake.isSome with
  | true, true => some a.readTurn
  | true, false => some .engine
  | false, true => some .brake
  | false, false => none

/-- The record passes the job's filters (R169). -/
def Archive.passes (a : Archive) (j : Job) (r : Stored) : Bool :=
  a.isPresent r && j.kinds.getLsbD (r.kind.code - 1) && j.classes.getLsbD r.cls && decide (j.lowestRide ≤ r.ride)

/-- A side's job replaced. -/
def State.setJob (s : State) (x : Side) (j : Job) : State :=
  s.withArchive { s.archive with jobs := s.archive.jobs.set x (some j) }

/-- A passing record that fits, copied into the window (R169). -/
def State.copyRecord (s : State) (x : Side) (j : Job) (r : Stored) : State :=
  let s1 := { s with exchange :=
    s.exchange.writeBytes (j.windowOffset + j.bytesWritten) (r.bytes s.archive.array) }
  s1.setJob x { j with
    offset := r.offset + r.length, bytesWritten := j.bytesWritten + r.length, recordsCopied := j.recordsCopied + 1 }

/-- The record at the job's position examined (R169, R172). -/
def State.examine (s : State) (x : Side) (j : Job) (r : Stored) : State :=
  if s.archive.passes j r then
    if j.bytesWritten + r.length ≤ j.windowLength then s.copyRecord x j r
    else s.endJob x j .partially j.sequence r.offset
  else s.setJob x { j with offset := r.offset + r.length }

/-- The walk of the position's segment has ended (R169, R172). Where no further segment is LIVE, the position's segment is
the head segment unless a lockout holds the head back; the next cursor then names the position's segment (the model's
choice, log 38). -/
def State.endOfWalk (s : State) (x : Side) (j : Job) (endOffset : Nat) : State :=
  match s.archive.nextLive j.sequence.toNat with
  | some q => s.setJob x { j with sequence := q, offset := Config.recordArea }
  | none =>
    if endOffset < Config.segmentBytes then s.endJob x j .ok j.sequence endOffset
    else s.endJob x j .ok (counterWord Config.exhaustedSegment s.archive.segmentCounter) Config.recordArea

/-- The position's segment is not LIVE (R168, R171): the job moves to the oldest LIVE segment above it, or ends OK. The
position before the first step, and the next cursor and the gap flag of a job that ends because its segment was marked WORN
or vacated with none above, are the model's choice (log 19). -/
def State.segmentGone (s : State) (x : Side) (j : Job) : State :=
  match s.archive.nextLive j.sequence.toNat with
  | some q => s.setJob x { j with sequence := q, offset := Config.recordArea, gap := j.gap || j.sequence != 0 }
  | none => s.endJob x j .ok (counterWord Config.exhaustedSegment s.archive.segmentCounter) Config.recordArea

/-- One step of a side's read job (R169, R171). A job created with a cursor that named no LIVE segment and none higher
looks again at its first step: a segment that the head has entered meanwhile under that sequence, or a higher one, is
read (the model's choice beside R168, log 19). -/
def State.stepJob (s : State) (x : Side) (j : Job) : State :=
  match s.archive.liveSegment j.sequence with
  | none => s.segmentGone x j
  | some i =>
    match (s.archive.recordsOf i).find? (fun r => decide (j.offset ≤ r.offset)) with
    | some r => s.examine x j r
    | none => s.endOfWalk x j (s.archive.walk i).endOffset

/-- The read turn passes to the other side (R167), and writes without a read-back are over. -/
def Archive.afterReadStep (a : Archive) (x : Side) : Archive :=
  { a with readTurn := x.other, work := if a.busy then a.work else none }

/-- READ_JOB_STEP (R166, R167, R169): granted while no write path item is pending, or the store lockout is in force. -/
def execReadJobStep (s : State) : Host.Outcome State Fault Refusal :=
  if s.startUp.phase = .running ∧ (s.locked ∨ !s.archive.writePending) then
    match s.archive.readSide with
    | none => .next s
    | some x =>
      match s.archive.jobs.get x with
      | none => .next s
      | some j => ((s.withArchive (s.archive.afterReadStep x)).stepJob x j).finish
  else .next s

end Sys2Proof.Machine
end

