-- ==== Sys2Proof/Machine/Scan.lean ====
section
/-! DEFINITION. The archive scan and the end of start-up (R180 to R186). -/

namespace Sys2Proof.Machine

/-! ## Headers and the head segment (R180, R181) -/

/-- The segment table as the headers give it (R180). -/
def scanSegments (m : Memory) : Table 16 Segment := .tabulate (readHeader m)

/-- The higher of a number and the best so far. -/
def maxOf (xs : List Nat) : Nat := xs.foldl max 0

/-- The LIVE segment of the highest sequence (R180); of two that hold the same one, the lower-numbered (the model's choice,
log 37). -/
def highestLive (t : Table 16 Segment) : Option (Fin 16) :=
  (indices 16).foldl (fun best i =>
    if (t.get i).state = .live then
      match best with
      | none => some i
      | some b => if (t.get b).sequence < (t.get i).sequence then some i else best
    else best) none

/-- The sequences of the committed records not flagged carried in the LIVE segments other than the head (R181). -/
def otherSequences (m : Memory) (t : Table 16 Segment) (head : Fin 16) : List DWord :=
  ((indices 16).filter (fun i => i != head && (t.get i).state == .live)).flatMap
    (fun i => ((walkSegment m i).records.filter (fun r => !r.carried)).map Stored.sequence)

/-- The first record of the head segment that passes neither test of R181; `fresh` says that no record not flagged
carried has come before. -/
def firstStale (others : List DWord) (fresh : Bool) : List Stored → Option Stored
  | [] => none
  | r :: rest =>
    if (r.carried && fresh) || others.all (fun q => decide (q < r.sequence)) then
      firstStale others (fresh && r.carried) rest
    else some r

/-- The head, the torn-record finding and the missing stop unit that the walk of the head segment gives (R181). -/
def scanHead (m : Memory) (t : Table 16 Segment) : Option Head × Nat × Bool :=
  match highestLive t with
  | none => (none, 0, false)
  | some i =>
    let w := walkSegment m i
    match firstStale (otherSequences m t i) true w.records with
    | some r => (some ⟨i, r.offset⟩, 0, true)
    | none => (some ⟨i, w.endOffset⟩, if w.ended = .uncommitted then 1 else 0, false)

/-! ## Duplicates and the rebuild (R182, R183) -/

/-- The records that give way to one of the same sequence in a segment of higher sequence (R182); of two in segments of one
segment sequence neither gives way, and no duplicate is counted (the model's choice, log 37). -/
def staleDuplicates (t : Table 16 Segment) (rs : List Stored) : List (Fin 16 × Nat) :=
  (rs.filter (fun r => rs.any (fun q =>
    q.sequence == r.sequence && decide ((t.get r.segment).sequence < (t.get q.segment).sequence)))).map
    (fun r => (r.segment, r.offset))

/-- The archive unit as the headers, the head segment and the duplicates give it (R180 to R182). -/
def scanTable (m : Memory) : Archive :=
  let t := scanSegments m
  let h := scanHead m t
  let a := { Archive.reset m with segments := t, head := h.1, stopUnitMissing := h.2.2 }
  { a with disregarded := staleDuplicates t a.liveRecords }

/-- The pin generation that the present records give (R183). -/
def scanGeneration (a : Archive) (present : List Stored) : Nat :=
  maxOf (present.map (fun r : Stored =>
    max r.generation.toNat (if r.isMarker a.array .release then (r.markerGeneration a.array).toNat else 0)))

/-- The archive unit as the scan leaves it (R180 to R183). -/
def scanArchive (m : Memory) : Archive :=
  let a := scanTable m
  let kept := a.liveRecords
  let a1 := { a with
    segmentCounter := maxOf (a.segments.cells.map (fun g : Segment => g.sequence.toNat)) + 1
    sequenceCounter := maxOf (kept.map (fun r : Stored => r.sequence.toNat)) + 1
    wipeSequence := (highestSequence (kept.filter (fun r => r.isMarker m .wipe))).getD 0 }
  let a2 := a1.chooseCarried
  let present := kept.filter a2.isPresent
  let a3 := { a2 with pinGeneration := BitVec.ofNat 32 (scanGeneration a2 present) }
  let stopped := decide (Config.wornLimit ≤ a3.count .worn) || decide (Config.counterEnd ≤ a3.sequenceCounter) ||
    decide (Config.counterEnd ≤ a3.segmentCounter)
  { a3 with
    pinnedBytes := lengthsOnce (kept.filter a3.countsStored)
    state := if stopped then .stopped else .running
    preparation := if stopped ∨ a3.head = none then none else a3.beginPreparation }

/-- The episode number counter (R29). -/
def scanEpisodeCounter (a : Archive) : DWord :=
  nextEpisodeNumber (BitVec.ofNat 32 (maxOf (a.liveRecords.map (fun r : Stored => r.episode.toNat))))

/-- The ride number of the present records; a kept status area's larger one is taken at a LINE or RESTART start-up
(R183). -/
def scanRideNumber (a : Archive) (cause : ResetKind) (shown : Word) : Word :=
  let found := maxOf ((a.liveRecords.filter a.isPresent).map (fun r : Stored => r.ride.toNat))
  if cause.clears then BitVec.ofNat 16 found else BitVec.ofNat 16 (max found shown.toNat)

/-! ## Persistent fields and orphan rides (R184, R185) -/

/-- The newest present RIDE_SUMMARY. -/
def Archive.newestSummaryRecord (a : Archive) : Option Stored :=
  a.liveRecords.find? (fun r => decide (r.kind = .summary) && decide (a.newestSummary = some r.sequence))

/-- A monitor with the persistent fields of its status entry (R184). -/
def Monitor.restore (v : Monitor) (entry : List Byte) : Monitor :=
  { v with
    confirmed := byteBit (entry.getD 0 0) 5
    failRides := (entry.getD 1 0).setWidth 4
    cleanRides := entry.getD 2 0 }

/-- The monitor table after R184. -/
def restoreMonitors (a : Archive) (t : Table 102 Monitor) : Table 102 Monitor :=
  match a.newestSummaryRecord with
  | none => t
  | some r => .tabulate (fun i => (t.get i).restore (r.statusEntry a.array i))

/-- The present ONSET records whose parked flag is clear, of rides above the newest summary's (R185). -/
def Archive.orphanOnsets (a : Archive) : List Stored :=
  let base := match a.newestSummaryRecord with
    | some r => r.ride
    | none => 0
  a.liveRecords.filter (fun r =>
    decide (r.kind = .onset) && a.isPresent r && !r.parked a.array && decide (base < r.ride))

/-- A ride number put into an ascending list without repeats. -/
def insertRide (n : Word) : List Word → List Word
  | [] => [n]
  | k :: rest => if n = k then k :: rest else if n < k then n :: k :: rest else k :: insertRide n rest

/-- The orphan rides, ascending (R185). -/
def Archive.orphanRides (a : Archive) : List Word :=
  a.orphanOnsets.foldl (fun acc r => insertRide r.ride acc) []

/-- Failed rides that confirm a monitor at the scan: 1 for an internal one, 3 for a host one (R185). -/
def scanConfirmRides (m : MonitorId) : Nat := if 96 ≤ m.val then 1 else 3

/-- A monitor counted as failed in an orphan ride (R185, 2). -/
def Monitor.orphanFail (v : Monitor) (m : MonitorId) : Monitor :=
  let fails := satInc v.failRides
  { v with failRides := fails, cleanRides := 0, confirmed := v.confirmed || decide (scanConfirmRides m ≤ fails.toNat) }

/-- The monitors that count as failed in an orphan ride. -/
def Archive.orphanFailed (a : Archive) (ride : Word) (m : MonitorId) : Bool :=
  a.orphanOnsets.any (fun r => r.ride == ride && r.monitor == m.val)

/-- One orphan ride (R185): the monitor table after it, and its reconstructed summary. -/
def reconstructRide (a : Archive) (t : Table 102 Monitor) (ride : Word) : Table 102 Monitor × Record :=
  let t' : Table 102 Monitor :=
    .tabulate (fun i => if a.orphanFailed ride i then (t.get i).orphanFail i else t.get i)
  let entries := (indices 102).map
    (fun i => ({ t'.get i with failedThisRide := a.orphanFailed ride i }).statusEntry)
  (t', { body := .summary ride true false false 0 0 entries, cls := .information, ride := ride, monitor := none,
         origin := .device, episode := 0 })

/-- All orphan rides in ascending order: the table after them and their summaries. -/
def reconstructRides (a : Archive) : Table 102 Monitor → List Word → Table 102 Monitor × List Record
  | t, [] => (t, [])
  | t, ride :: rest =>
    let r := reconstructRide a t ride
    let q := reconstructRides a r.1 rest
    (q.1, r.2 :: q.2)

/-! ## The end of start-up (R186) -/

/-- What the scan finds is taken into the blocks (R180 to R185). -/
def State.takeScan (s : State) (a : Archive) (rebuilt : Table 102 Monitor) : State :=
  { s with
    archive := a
    episodes := { s.episodes with counter := scanEpisodeCounter a }
    rides := { s.rides with number := scanRideNumber a s.startUp.cause s.exchange.status.rideNumber }
    qual := { s.qual with monitors := rebuilt }
    startUp := { s.startUp with
      tornRecords := BitVec.ofNat 16 (scanHead a.array a.segments).2.1
      duplicatesResolved := BitVec.ofNat 16 a.disregarded.length
      orphanRides := BitVec.ofNat 16 a.orphanRides.length } }

/-- The reconstructed summaries of the highest 48 orphan rides are offered while the archive runs (R185). -/
def State.offerSummaries (s : State) (rs : List Record) : State :=
  if s.archive.state = .running then
    (rs.drop (rs.length - Config.queuePlaces)).foldl (fun acc r => (acc.offer r none).1) s
  else s

/-- A remembered ADOPT is performed; without one the part becomes UNCONFIGURED (R186, 2). -/
def State.endAdopt (s : State) : State :=
  let s1 := { s with startUp := { s.startUp with
    phase := .running, clearingCut := false, adoptRemembered := false, part := .unconfigured } }
  if s.startUp.adoptRemembered then s1.performAdopt else s1

/-- START_UP_END (R180 to R186). -/
def execStartUpEnd (s : State) : Host.Outcome State Fault Refusal :=
  if s.startUp.phase = .scanning then
    let a := scanArchive s.archive.array
    let r := reconstructRides a (restoreMonitors a s.qual.monitors) a.orphanRides
    (((s.takeScan a r.1).offerSummaries r.2).endAdopt).finish
  else .next s

end Sys2Proof.Machine
end

