-- ==== Sys2Proof/Machine/SupplyCommands.lean ====
section
/-! DEFINITION. The commands of the supply monitor and of the resets (R174 to R178, R95). -/

namespace Sys2Proof.Machine

/-! ## The supply monitor -/

/-- The interrupted writes are made again from their first unit, an entry with all that it does (R176). -/
def Archive.resume (a : Archive) : Archive :=
  match a.work with
  | none => a
  | some w =>
    if w.suspended then
      let a1 := match w.entry with
        | some e => a.enter e
        | none => a
      a1.begin w.item w.marks w.entry (w.writes.map (fun u : UnitWrite => (u.address, u.new)))
    else a

/-- A LOW entry (R175): the lockout begins, and while RIDING the dip count rises and monitor 100 gets a FAIL. -/
def State.enterLow (s : State) (cut : Cut) : State :=
  let s1 := { s.suspendWrites cut with supply := { s.supply with state := .low, settle := 0 } }
  if s1.isRiding then
    let n := satInc s1.supply.dips
    ({ s1 with supply := { s1.supply with dips := n } }).takeVerdict supplyMonitor (internalFail (n.setWidth 16))
  else s1

/-- LOW_ENTRY (R174, R175): from NORMAL and from SETTLING. -/
def execLowEntry (cut : Cut) (s : State) : Host.Outcome State Fault Refusal :=
  if s.supply.state = .low then .next s else (s.enterLow cut).finish

/-- SUPPLY_RISE (R174): LOW becomes SETTLING, once the supply no longer holds the device in reset. -/
def execSupplyRise (s : State) : Host.Outcome State Fault Refusal :=
  if s.supply.state = .low ∧ !s.startUp.supplyHold then
    .next { s with supply := { s.supply with state := .settling, settle := Config.settleMs } }
  else .next s

/-- The write path goes on with what the lockout interrupted, a grant to which the read jobs yield (R166, R170, R176). -/
def State.resumeWrites (s : State) : State :=
  match s.archive.work with
  | none => s
  | some w => if w.suspended then s.yieldJobs.withArchive s.yieldJobs.archive.resume else s

/-- END_OF_SETTLING (R175, R176): the settle timer has no time left; the lockout ends, interrupted writes are redone,
and monitor 100 gets a PASS. -/
def execEndOfSettling (s : State) : Host.Outcome State Fault Refusal :=
  if s.supply.state = .settling ∧ s.supply.settle = 0 then
    let s1 := ({ s with supply := { s.supply with state := .normal } }).resumeWrites
    (s1.takeVerdict supplyMonitor internalPass).finish
  else .next s

/-! ## The end of the drain -/

/-- DRAIN_TIMER_EXPIRY (R178): the drain timer has no time left, and the reset of kind RESTART is taken. -/
def execDrainTimerExpiry (unitsDone : Nat) (s : State) : Host.Outcome State Fault Refusal :=
  if s.startUp.part = .restarting ∧ s.startUp.drain = some 0 then
    .next (s.restartReset (s.stopOff unitsDone))
  else .next s

/-! ## Resets (R177) -/

/-- The supply monitor at a POWER_ON or SUPPLY reset: LOW (R174). -/
def State.supplyLow (s : State) : State := { s with supply := .reset }

/-- The two inputs that hold the device in reset. -/
def State.withHolds (s : State) (resetLow supplyHold clearingCut : Bool) : State :=
  { s with startUp := { s.startUp with resetLow := resetLow, supplyHold := supplyHold, clearingCut := clearingCut } }

/-- POWER_ON (R177): the reset, and start-up once the supply has reached 2.80 V, which this command includes. -/
def execPowerOn (cut : Cut) (cleared : Nat) (s : State) : Host.Outcome State Fault Refusal :=
  let s1 := (((s.yieldVacating cut).interruptClearing cleared).resetBlocks .powerOn (s.cutOff cut)).supplyLow
  .next (s1.withHolds s.startUp.resetLow false false).beginStartUp

/-- SUPPLY_RESET (R177): the supply falls below 2.70 V while the device is running or starting, and holds it. -/
def execSupplyReset (cut : Cut) (cleared : Nat) (s : State) : Host.Outcome State Fault Refusal :=
  if s.startUp.supplyHold then .next s
  else
    let s1 := (((s.yieldVacating cut).interruptClearing cleared).resetBlocks .supply (s.cutOff cut)).supplyLow
    .next (s1.withHolds s.startUp.resetLow true false)

/-- The start-up that a LINE reset taken now begins counts as of the earlier kind (R177): the clearing was under way,
or had been interrupted in a start-up that has not ended. -/
def State.countsEarlier (s : State) : Bool :=
  decide (s.startUp.phase = .clearing) || (s.startUp.clearingCut && decide (s.startUp.phase ≠ .running))

/-- LINE_RESET (R177): the reset, exchange memory kept and the part state SCANNING written to it at once (R93), and start-up
when the input is released within the command. While the device is already held in reset, only the input is noted (log 13). -/
def execLineReset (cut : Cut) (cleared : Nat) (released : Bool) (s : State) : Host.Outcome State Fault Refusal :=
  if s.isHeld then .next (s.withHolds (!released) s.startUp.supplyHold s.startUp.clearingCut).beginStartUp
  else
    let cause := if s.countsEarlier then s.startUp.cause else .line
    let s1 := ((s.yieldVacating cut).interruptClearing cleared).resetBlocks cause (s.cutOff cut)
    .next (s1.withHolds (!released) false s.countsEarlier).writeScanning.beginStartUp

/-- RESET_INPUT_RELEASED (R177). -/
def execResetInputReleased (s : State) : Host.Outcome State Fault Refusal :=
  if s.startUp.resetLow then
    .next (s.withHolds false s.startUp.supplyHold s.startUp.clearingCut).beginStartUp
  else .next s

/-- SUPPLY_REACHES_2_80_V (R177): start-up with clearing; when the supply fell below 1.50 V meanwhile the reset is one of
kind POWER_ON, after which every block stands at its reset values (log 12). -/
def execSupplyReaches280V (fellBelow150 : Bool) (s : State) : Host.Outcome State Fault Refusal :=
  if s.startUp.supplyHold then
    let s1 := if fellBelow150 then (s.resetBlocks .powerOn s.archive.array).supplyLow else s
    .next (s1.withHolds s.startUp.resetLow false (s.startUp.clearingCut && !fellBelow150)).beginStartUp
  else .next s

/-- CLEARING_COMPLETE (R95): exchange memory is 0, the part state SCANNING is written and the scan begins. -/
def execClearingComplete (s : State) : Host.Outcome State Fault Refusal :=
  if s.startUp.phase = .clearing then
    .next { s with
      exchange := { s.exchange with
        cells := [], status := { StatusArea.zero with partState := PartState.code .scanning } }
      startUp := { s.startUp with phase := .scanning } }
  else .next s

end Sys2Proof.Machine
end

