-- ==== Sys2Proof/Machine/TimerCommands.lean ====
section
/-! DEFINITION. The commands of elapsed time (R55, R65, R79; log 3): each RIDE_CLOCK_TICK is one millisecond for every
timer, and an expiry is taken once its timer has no time left. -/

namespace Sys2Proof.Machine

/-- CAPTURE_TIMER_EXPIRY (R55). -/
def execCaptureTimerExpiry (i : Fin 8) (s : State) : Host.Outcome State Fault Refusal :=
  match s.snaps.slots.get i with
  | none => .next s
  | some c => if c.timer = some 0 then (s.endCapture i .truncatedTimeout).finish else .next s

/-- A running silence timer expires: the count rises, the timer restarts at its limit, and the silence monitor gets a
FAIL with the count as measured value (R79). -/
def State.expireSilence (s : State) (x : Side) : State :=
  let n := satInc (s.rides.silence.get x).expiries
  let t : SilenceTimer := { remaining := (armedTimer (s.limitMs x)).remaining, expiries := n }
  ({ s with rides := { s.rides with silence := s.rides.silence.set x t } }).takeVerdict (silenceMonitor x)
    (internalFail (n.setWidth 16))

/-- SILENCE_TIMER_EXPIRY (R79). -/
def execSilenceTimerExpiry (x : Side) (s : State) : Host.Outcome State Fault Refusal :=
  if (s.rides.silence.get x).remaining = some 0 then (s.expireSilence x).finish else .next s

/-- A timer one millisecond on; at 0 it stays until its expiry is taken. -/
def msOn (t : Option Nat) : Option Nat := t.map (fun n => n - 1)

/-- A capture's timer one millisecond on. -/
def Capture.msOn (c : Capture) : Capture := { c with timer := Machine.msOn c.timer }

/-- A silence timer one millisecond on. -/
def SilenceTimer.msOn (t : SilenceTimer) : SilenceTimer := { t with remaining := Machine.msOn t.remaining }

/-- One millisecond of elapsed time for the device: the ride clock (R65), the capture timers (R55), the silence timers
(R77) and the drain timer (R178). -/
def State.tickDevice (s : State) : State :=
  { s with
    rides := { s.rides with
      clock := satInc s.rides.clock
      silence := ⟨s.rides.silence.engine.msOn, s.rides.silence.brake.msOn⟩ }
    snaps := { s.snaps with slots := s.snaps.slots.map (fun c => c.map Capture.msOn) }
    startUp := { s.startUp with drain := msOn s.startUp.drain } }

/-- One millisecond for the settle timer, which no LINE or RESTART reset touches (R174). -/
def State.tickSettle (s : State) : State := { s with supply := { s.supply with settle := s.supply.settle - 1 } }

/-- RIDE_CLOCK_TICK (R65): the clock runs in every part state, from the reset on (log 12). -/
def execRideClockTick (s : State) : Host.Outcome State Fault Refusal :=
  .next s.tickSettle.tickDevice.showStatus

end Sys2Proof.Machine
end

