-- ==== Sys2Proof/Machine/Dispatch.lean ====
section
/-! DEFINITION. The dispatch: one arm per command, each a direct call of the command's meaning. -/

namespace Sys2Proof.Machine

def exec (i : Instr) (s : State) : Host.Outcome State Fault Refusal :=
  match i with
  | .inboundAppend x off => Sys2Proof.Machine.execInboundAppend x off s
  | .freeAppend x off => Sys2Proof.Machine.execFreeAppend x off s
  | .freeTake x => Sys2Proof.Machine.execFreeTake x s
  | .returnTake x => Sys2Proof.Machine.execReturnTake x s
  | .wrongDirectionAccess x r => Sys2Proof.Machine.execWrongDirectionAccess x r s
  | .noticeClear x v => Sys2Proof.Machine.execNoticeClear x v s
  | .noticeMaskWrite x v => Sys2Proof.Machine.execNoticeMaskWrite x v s
  | .adopt => Sys2Proof.Machine.execAdopt s
  | .restart cut => Sys2Proof.Machine.execRestart cut s
  | .unassignedRegisterAccess x a d => Sys2Proof.Machine.execUnassignedRegisterAccess x a d s
  | .exchangeMemoryWrite x c a data => Sys2Proof.Machine.execExchangeMemoryWrite x c a data s
  | .statusFieldDeferredWrite x e => Sys2Proof.Machine.execStatusFieldDeferredWrite x e s
  | .verdict => Sys2Proof.Machine.execVerdict s
  | .context => Sys2Proof.Machine.execContext s
  | .plan => Sys2Proof.Machine.execPlan s
  | .episodeList => Sys2Proof.Machine.execEpisodeList s
  | .rideOpen => Sys2Proof.Machine.execRideOpen s
  | .rideClose => Sys2Proof.Machine.execRideClose s
  | .archiveRead => Sys2Proof.Machine.execArchiveRead s
  | .releasePinned => Sys2Proof.Machine.execReleasePinned s
  | .archiveWipe => Sys2Proof.Machine.execArchiveWipe s
  | .unknownKind => Sys2Proof.Machine.execUnknownKind s
  | .captureTimerExpiry slot => Sys2Proof.Machine.execCaptureTimerExpiry slot s
  | .silenceTimerExpiry x => Sys2Proof.Machine.execSilenceTimerExpiry x s
  | .rideClockTick => Sys2Proof.Machine.execRideClockTick s
  | .recordWriteGrant => Sys2Proof.Machine.execRecordWriteGrant s
  | .recordCommit => Sys2Proof.Machine.execRecordCommit s
  | .verifyFailure flips => Sys2Proof.Machine.execVerifyFailure flips s
  | .carryWrite => Sys2Proof.Machine.execCarryWrite s
  | .carryCommit => Sys2Proof.Machine.execCarryCommit s
  | .carryVerifyFailure flips => Sys2Proof.Machine.execCarryVerifyFailure flips s
  | .vacate => Sys2Proof.Machine.execVacate s
  | .scanStopUnitWrite => Sys2Proof.Machine.execScanStopUnitWrite s
  | .readJobStep => Sys2Proof.Machine.execReadJobStep s
  | .lowEntry cut => Sys2Proof.Machine.execLowEntry cut s
  | .supplyRise => Sys2Proof.Machine.execSupplyRise s
  | .endOfSettling => Sys2Proof.Machine.execEndOfSettling s
  | .drainTimerExpiry n => Sys2Proof.Machine.execDrainTimerExpiry n s
  | .powerOn cut n => Sys2Proof.Machine.execPowerOn cut n s
  | .supplyReset cut n => Sys2Proof.Machine.execSupplyReset cut n s
  | .lineReset cut n b => Sys2Proof.Machine.execLineReset cut n b s
  | .clearingComplete => Sys2Proof.Machine.execClearingComplete s
  | .startUpEnd => Sys2Proof.Machine.execStartUpEnd s
  | .resetInputReleased => Sys2Proof.Machine.execResetInputReleased s
  | .supplyReaches280V b => Sys2Proof.Machine.execSupplyReaches280V b s

end Sys2Proof.Machine
end

