-- ==== Sys2Proof/Machine/PortFrames.lean ====
section
/-! DEFINITION. The serial frames of a port (R188) and the register map by which each of their words is an access (R189):
the commands that a frame sends, in the order of its words. -/

namespace Sys2Proof.Machine

/-- A frame of a port (R188): the whole bytes received between the edges of chip select, and the data words that the port
has begun to shift out, if it is a READ frame. -/
structure PortFrame where
  bytes : List Byte
  wordsOut : Nat
deriving DecidableEq, Repr

/-- The command byte READ (R188). -/
def readByteCode : Byte := 0x3C
/-- The command byte WRITE (R188). -/
def writeByteCode : Byte := 0xC3

/-- The address of a frame, sent high byte first, the lowest bit ignored (R188). -/
def frameAddress (high low : Byte) : Word := evenAddress (high ++ low)

/-- The data words of a frame, each sent low byte first; a word cut short is discarded (R188). -/
def wordsOf : List Byte → List Word
  | low :: high :: rest => (high ++ low) :: wordsOf rest
  | [_] => []
  | [] => []

/-- A word written to *control* on the engine port (R189); any value but ADOPT's and RESTART's is ignored. `cut` is the
cut-off of a RESTART (log 4). -/
def controlWrite (cut : Cut) (value : Word) : List Instr :=
  if value = 0x6A01 then [.adopt] else if value = 0x6A0E then [.restart cut] else []

/-- One word of a WRITE frame at an even address (R189). -/
def wordWrite (x : Side) (cut : Cut) (continued : Bool) (a value : Word) : List Instr :=
  if a.toNat < 0x8000 then [.exchangeMemoryWrite x continued a [value]]
  else if a = 0x8000 then [.inboundAppend x value]
  else if a = 0x8002 then [.freeAppend x value]
  else if a = 0x8004 then [.wrongDirectionAccess x .freeTake]
  else if a = 0x8006 then [.wrongDirectionAccess x .returnTake]
  else if a = 0x8008 then [.noticeClear x value]
  else if a = 0x800A then [.noticeMaskWrite x value]
  else if a = 0x800C ∧ x = .engine then controlWrite cut value
  else [.unassignedRegisterAccess x a .write]

/-- One word of a READ frame at an even address (R189). A read that changes nothing (exchange memory, *notice*, *notice
mask*, *control*) is no command. -/
def wordRead (x : Side) (a : Word) : List Instr :=
  if a.toNat < 0x8000 then []
  else if a = 0x8000 then [.wrongDirectionAccess x .inboundAppend]
  else if a = 0x8002 then [.wrongDirectionAccess x .freeAppend]
  else if a = 0x8004 then [.freeTake x]
  else if a = 0x8006 then [.returnTake x]
  else if hasRegister x a then []
  else [.unassignedRegisterAccess x a .read]

/-- The words of a WRITE frame, each 2 above the one before, FFFEh followed by 0000h (R188). `continued` says that the
frame has had a word in exchange memory. -/
def writeWords (x : Side) (cut : Cut) : Bool → Word → List Word → List Instr
  | _, _, [] => []
  | continued, a, value :: rest =>
    wordWrite x cut continued a value ++ writeWords x cut (continued || decide (a.toNat < 0x8000)) (a + 2) rest

/-- The words of a READ frame (R188). -/
def readWords (x : Side) : Word → Nat → List Instr
  | _, 0 => []
  | a, n + 1 => wordRead x a ++ readWords x (a + 2) n

/-- A READ frame: its words, between the edges that hold the multi-word status fields off (R84, log 10). -/
def readFrame (x : Side) (a : Word) (words : Nat) : List Instr :=
  if words = 0 then []
  else .statusFieldDeferredWrite x (.begins a words) :: readWords x a words ++ [.statusFieldDeferredWrite x .ends]

/-- The commands of a frame (R188): a frame whose command byte is neither READ nor WRITE, and one that ends before its
address is complete, are ignored. -/
def frameCommands (x : Side) (cut : Cut) (f : PortFrame) : List Instr :=
  match f.bytes with
  | code :: high :: low :: data =>
    if code = readByteCode then readFrame x (frameAddress high low) f.wordsOut
    else if code = writeByteCode then writeWords x cut false (frameAddress high low) (wordsOf data)
    else []
  | _ => []

/-- The commands of a frame join the queue. Words of the other port and the device's own moves may fall between them:
such an order is another queue of the same commands (log 1). -/
def State.receive (s : State) (x : Side) (cut : Cut) (f : PortFrame) : State :=
  s.withPending (s.pending ++ frameCommands x cut f)

/-- The word that the port shifts out from an even address, fixed when its shifting begins (R188, R189). -/
def State.wordOut (s : State) (x : Side) (a : Word) : Word :=
  match wordRead x a with
  | [] => s.observe x a
  | c :: _ =>
    match exec c s with
    | .next t => (t.ports.get x).readData
    | .fault _ | .refused _ => 0

end Sys2Proof.Machine
end

