-- ==== Sys2Proof/Safety.lean ====
section
/-! DEFINITION. What the statements say about states: the premises of the rules, and the invariants that every step
keeps. -/

namespace Sys2Proof.Machine

/-! ## Premises -/

/-- The archive sequence counter has `n` numbers left, so `n` offers do not stop the archive (R143, R146). -/
abbrev State.offersLeft (s : State) (n : Nat) : Prop := s.archive.sequenceCounter + n ≤ Config.counterEnd

/-- Numbers are left for what one verdict offers at most: the CLOSE of an evicted episode, an ONSET and a SNAPSHOT. -/
abbrev State.numbersLeft (s : State) : Prop := s.archive.sequenceCounter + 3 ≤ Config.counterEnd

/-- No FAIL of monitor 101 is put off between two steps (R154). -/
abbrev State.quiet (s : State) : Prop := s.archive.storeFails = []

/-- The slip that intake takes next is at the head of this side's INBOUND chain and has this kind (R105, R113). -/
abbrev State.serves (s : State) (x : Side) (slip : Word) (k : SlipKind) : Prop :=
  s.nextSlip = some (x, slip) ∧ slipKind (s.slipWord slip 0) = k

/-- Slip `k` of this side's pool under the adopted layout starts at this offset (R89, R99). -/
structure State.SlipAt (s : State) (x : Side) (slip : Word) (l : Layout) (k : Nat) : Prop where
  adopted : s.exchange.layout = some l
  inPool : k < (l.pool.get x).count
  starts : slip.toNat = (l.pool.get x).base + 64 * k

/-- A whole slip lies in exchange memory beyond the status area. -/
abbrev slipFits (slip : Word) : Prop := 0x100 ≤ slip.toNat ∧ slip.toNat + 64 ≤ 0x8000

/-- No read job runs. -/
abbrev State.noJobs (s : State) : Prop := s.archive.jobs = .both none

/-- What a reset leaves (R177): every block at its reset value but the array, exchange memory, the supply monitor's
state and timer, and the phase and holds of the start-up sequencer. -/
structure State.AfterReset (s t : State) (cause : ResetKind) : Prop where
  pending : t.pending = s.pending
  ports : t.ports = .both .reset
  layout : t.exchange.layout = none
  chains : t.chains = .reset
  intake : t.intake = .reset
  qual : t.qual = .reset
  episodes : t.episodes = .reset
  snaps : t.snaps = .reset
  rides : t.rides = .reset
  archive : t.archive = .reset t.archive.array
  dips : t.supply.dips = 0
  part : t.startUp.part = .scanning
  cause : t.startUp.cause = cause
  adopt : t.startUp.adoptRemembered = false ∧ t.startUp.layoutResult = .none
  findings : t.startUp.tornRecords = 0 ∧ t.startUp.duplicatesResolved = 0 ∧ t.startUp.orphanRides = 0
  drain : t.startUp.drain = none
  draws : t.draws = s.draws

/-- Start-up has begun: with the clearing for a POWER_ON or SUPPLY start-up whose clearing was not interrupted, else
with the scan (R177, R179). -/
abbrev State.StartUpBegun (t : State) : Prop :=
  t.startUp.phase = if t.startUp.cause.clears && !t.startUp.clearingCut then .clearing else .scanning

/-! ## Invariants -/

/-- Both memories are in canonical form, and none of exchange memory's listed bytes lies in the status area. -/
abbrev State.MemoryInv (s : State) : Prop :=
  s.exchange.cells.wf Config.exchangeBytes = true ∧
  s.exchange.cells.all (fun c => !inStatusArea c.1) = true ∧
  s.archive.array.wf Config.arrayBytes = true

/-- The part state, the phase, the layout and the holds agree (R64, R90, R92, R93, R177, R178). -/
structure State.PartInv (s : State) : Prop where
  riding : s.rides.state = .riding → s.startUp.part = .ready
  layout : s.exchange.layout.isSome = s.takesServed
  scanning : s.startUp.part = .scanning ↔ s.startUp.phase ≠ .running
  held : s.startUp.phase = .held ↔ (s.startUp.resetLow = true ∨ s.startUp.supplyHold = true)
  drain : s.startUp.drain.isSome = true ↔ s.startUp.part = .restarting
  remembered : s.startUp.adoptRemembered = true → s.startUp.part = .scanning

/-- The ranges of a settings record (R2). -/
structure Settings.InRange (g : Settings) : Prop where
  failStep : 1 ≤ g.failStep ∧ g.failStep ≤ 64
  passStep : 1 ≤ g.passStep ∧ g.passStep ≤ 64
  failLimit : 1 ≤ g.failLimit ∧ g.failLimit ≤ 64
  passLimit : 1 ≤ g.passLimit ∧ g.passLimit ≤ 64
  confirmRides : 1 ≤ g.confirmRides ∧ g.confirmRides ≤ 3
  agingRides : 1 ≤ g.agingRides ∧ g.agingRides ≤ 40
  preFrames : g.preFrames ≤ 4
  postFrames : g.postFrames ≤ 7

/-- What each state allows the debounce counter to be under settings (R6). -/
def MonitorState.allows (st : MonitorState) (g : Settings) (c : Int) : Prop :=
  match st with
  | .disabled => c = 0
  | .notRun => c = 0
  | .passed => -(g.passLimit : Int) ≤ c ∧ c ≤ 0
  | .maturing => 1 ≤ c ∧ c ≤ g.failLimit
  | .failed => -(g.passLimit : Int) + 1 ≤ c ∧ c ≤ g.failLimit

/-- One monitor keeps the ranges of R2 and the counter of R6; staged settings wait on a FAILED monitor alone (R23). -/
def Monitor.Sound (v : Monitor) : Prop :=
  (∀ g, v.adopted = some g → g.InRange ∧ v.state.allows g v.counter) ∧
  (v.adopted = none → v.state = .disabled ∧ v.counter = 0) ∧
  (∀ g, v.staged = some g → g.InRange ∧ v.state = .failed)

/-- Every monitor is sound. -/
def State.MonitorInv (s : State) : Prop := ∀ m, (s.monitor m).Sound

/-- The episode table and the monitors agree (R27, R28, R39): a monitor has one open episode at most, that monitor is
FAILED and tracked until a RESTART closes the episodes, and only FAILED monitors are untracked. -/
structure State.EpisodeInv (s : State) : Prop where
  single : ∀ j k e f, s.episodes.table.get j = some e → s.episodes.table.get k = some f → e.monitor = f.monitor → j = k
  failed : s.startUp.part ≠ .restarting → ∀ k e, s.episodes.table.get k = some e →
    (s.monitor e.monitor).state = .failed ∧ (s.monitor e.monitor).untracked = false
  untracked : ∀ m, (s.monitor m).untracked = true → (s.monitor m).state = .failed

/-- A chain holds exactly the slips of a pool that have an owner-state, each once (R96, R98). -/
structure Chains.Holds (c : Chains) (p : Pool) (chain : List Word) (o : Owner) : Prop where
  once : chain.Nodup
  owned : ∀ slip ∈ chain, ∃ k, k < p.count ∧ slip = p.slipOffset k ∧ c.owner[k]? = some o
  whole : ∀ k, k < p.count → c.owner[k]? = some o → p.slipOffset k ∈ chain

/-- The slips of a side that wait for records or run a read job (R129, R168). -/
def State.workSlips (s : State) (x : Side) : List Word :=
  (s.intake.waiting.filter (fun w => w.side == x)).map Waiting.slip ++ ((s.archive.jobs.get x).map Job.slip).toList

/-- One side's chains under its pool: one owner-state for every slip, and the slips that the device keeps are IN_WORK
and differ from each other (R96, R98, R106). -/
structure State.ChainsSound (s : State) (x : Side) (p : Pool) : Prop where
  size : (s.chainsOf x).owner.length = p.count
  free : (s.chainsOf x).Holds p (s.chainsOf x).free .free
  inbound : (s.chainsOf x).Holds p (s.chainsOf x).inbound .inbound
  ret : (s.chainsOf x).Holds p (s.chainsOf x).ret .returned
  distinct : (s.workSlips x).Nodup
  inWork : ∀ slip ∈ s.workSlips x, ∃ k, k < p.count ∧ slip = p.slipOffset k ∧
    (s.chainsOf x).owner[k]? = some .inWork

/-- With an adopted layout, which passes its checks, the chains are sound; without one there are no chains, and no slip
waits or runs a read job (R92, R96, R98, R107). -/
structure State.ChainInv (s : State) : Prop where
  valid : ∀ l, s.exchange.layout = some l → l.validate = .ok
  sound : ∀ l x, s.exchange.layout = some l → s.ChainsSound x (l.pool.get x)
  gone : s.exchange.layout = none →
    s.chains.sides = .both .reset ∧ s.intake.waiting = [] ∧ s.archive.jobs = .both none

/-- RETURN_READY is latched while the side's RETURN chain holds a slip (R110). -/
def State.ReturnReadyInv (s : State) : Prop :=
  ∀ x, (s.chainsOf x).ret ≠ [] → (s.ports.get x).isLatched .returnReady = true

/-- While the device runs, each status field shows its owner's value, or is held off by a read frame (R84). -/
def State.StatusInv (s : State) : Prop := s.startUp.phase = .running → s.exchange.status = s.currentStatus

/-- The bounds of the filing queue and the history ring (R49, R146), and what a stopped archive leaves (R154). -/
structure State.QueueInv (s : State) : Prop where
  places : s.archive.queue.length ≤ Config.queuePlaces
  common : s.archive.commonQueued ≤ Config.commonPlaces
  ring : s.snaps.ring.length ≤ Config.ringFrames
  quiet : s.quiet
  stopped : s.archive.state = .stopped →
    s.archive.queue = [] ∧ s.archive.preparation = none ∧ s.archive.work = none ∧ s.archive.jobs = .both none

/-- Under the store lockout a write under way has been cut off and waits (R176). -/
def State.LockoutInv (s : State) : Prop :=
  s.locked = true → ∀ w, s.archive.work = some w → w.suspended = true

end Sys2Proof.Machine
end

