-- ==== Sys2Proof/Certificates/Slice0/Obligations.lean ====
section
/-! DEFINITION. The statements for the provers. -/

open Sys2Proof Sys2Proof.Machine

/-! ## The queue of commands and the invariants -/

/-- Log 1: the command at the front of the queue is executed on the state with the queue's rest, and on an empty queue
the device idles (the model's choice). -/
def Obligations.StepTakesTheFront : Prop :=
  (∀ (c : Instr) (rest : List Instr) (s : State), s.pending = c :: rest → step s = exec c (s.withPending rest)) ∧
  (∀ s : State, s.pending = [] → step s = .next s)

/-- Logs 1 and 23 (the model's choice): a command whose operands its row admits ends in a next state in every state, any
other is refused, and no command's own effect touches the queue of waiting commands. -/
def Obligations.WellFormedCommandsComplete : Prop :=
  (∀ (c : Instr) (s : State), c.wellFormed = true → ∃ t, exec c s = .next t) ∧
  (∀ (c : Instr) (s : State), c.wellFormed = false → exec c s = .refused .illFormed) ∧
  (∀ (c : Instr) (s t : State), exec c s = .next t → t.pending = s.pending)

/-- The values the spec gives the blocks at a reset (R5, R16, R28, R49, R51, R62, R64, R65, R67, R77, R85, R96, R108,
R109, R113, R135, R145, R167, R168, R174, R175), and that the reset state meets every invariant that steps keep. -/
def Obligations.ResetValuesAndInvariants : Prop :=
  let s := State.reset
  (∀ x, (s.ports.get x).flags = 0 ∧ (s.ports.get x).mask = 0) ∧
  s.exchange.layout = none ∧ (∀ x, s.chainsOf x = ⟨[], [], [], []⟩ ∧ s.chains.misuse.get x = 0) ∧
  s.intake.pointer = .engine ∧ s.intake.wipeWaiting = false ∧
  (∀ m : MonitorId, (s.monitor m).state = (if m.val < 96 then .disabled else .notRun) ∧
    (s.monitor m).staged = none ∧ (s.monitor m).counter = 0 ∧ (s.monitor m).untracked = false ∧
    (s.monitor m).held = 0 ∧ (s.monitor m).ran = false ∧ (s.monitor m).failedThisRide = false ∧
    (s.monitor m).failRides = 0 ∧ (s.monitor m).cleanRides = 0 ∧ (s.monitor m).confirmed = false) ∧
  (∀ m : MonitorId, m.val < 96 → (s.monitor m).adopted = none) ∧
  (∀ m : MonitorId, 96 ≤ m.val → ∃ g, (s.monitor m).adopted = some g ∧ g.enable = true ∧ g.failStep = 1 ∧
    g.passStep = 1 ∧ g.failLimit = 1 ∧ g.passLimit = 1 ∧ g.jump = false ∧ g.suppressor = none ∧
    g.confirmRides = 1 ∧ g.agingRides = 3 ∧
    g.cls = (if m.val = 96 then .drivability else if m.val = 97 then .safety else .information) ∧
    g.preFrames = (if m.val = 96 ∨ m.val = 97 then 4 else if m.val = 100 then 2 else 0) ∧
    g.postFrames = (if m.val = 96 ∨ m.val = 97 then 2 else if m.val = 100 then 3 else 0)) ∧
  (∀ x, s.qual.ignored.get x = 0) ∧ s.qual.heldVerdicts = 0 ∧
  (∀ k, s.episodes.table.get k = none) ∧ s.episodes.untrackedOnsets = 0 ∧
  s.snaps.ring = [] ∧ (∀ i, s.snaps.slots.get i = none) ∧ s.snaps.misses = 0 ∧
  s.rides.state = .parked ∧ s.rides.clock = 0 ∧ s.rides.odometer = 0 ∧
  (∀ x, s.rides.silence.get x = ⟨none, 0⟩) ∧
  s.archive.queue = [] ∧ s.noJobs ∧ s.archive.readTurn = .engine ∧ s.archive.recordsDropped = 0 ∧
  s.archive.retentionOverflows = 0 ∧ s.archive.carryStalls = 0 ∧
  s.supply.state = .low ∧ s.supply.dips = 0 ∧ s.startUp.part = .scanning ∧ s.startUp.layoutResult = .none ∧
  State.reset.MemoryInv ∧ State.reset.PartInv ∧ State.reset.MonitorInv ∧ State.reset.EpisodeInv ∧
  State.reset.ReturnReadyInv ∧ State.reset.StatusInv ∧ State.reset.QueueInv ∧ State.reset.LockoutInv ∧
  State.reset.ChainInv

/-- Every step keeps both memories in canonical form. -/
def Obligations.StepsKeepMemory : Prop :=
  ∀ s t : State, s.MemoryInv → step s = .next t → t.MemoryInv

/-- Every step keeps the agreement of part state, phase, layout, holds and drain timer (R64, R90, R92, R93, R177,
R178). -/
def Obligations.StepsKeepPart : Prop :=
  ∀ s t : State, s.PartInv → step s = .next t → t.PartInv

/-- Every step keeps every monitor's settings in the ranges of R2 and its debounce counter in the range of R6. -/
def Obligations.StepsKeepMonitors : Prop :=
  ∀ s t : State, s.MonitorInv → step s = .next t → t.MonitorInv

/-- Every step keeps the agreement of the episode table and the monitors (R27, R28, R39). -/
def Obligations.StepsKeepEpisodes : Prop :=
  ∀ s t : State, s.PartInv → s.EpisodeInv → step s = .next t → t.EpisodeInv

/-- RETURN_READY stays latched whenever a RETURN chain holds a slip (R110). -/
def Obligations.StepsKeepReturnReady : Prop :=
  ∀ s t : State, s.ReturnReadyInv → step s = .next t → t.ReturnReadyInv

/-- After every step of the running device the status area shows its owners' values (R84, R85). -/
def Obligations.StepsKeepStatus : Prop :=
  ∀ s t : State, s.PartInv → s.StatusInv → step s = .next t → t.StatusInv

/-- Every step keeps the bounds of the filing queue and of the history ring (R49, R146), and a stopped archive stays
without queue, preparation, write and read job (R154). -/
def Obligations.StepsKeepQueue : Prop :=
  ∀ s t : State, s.QueueInv → step s = .next t → t.QueueInv

/-- From an adoption to the next reset every slip of a pool has one owner-state, each chain holds exactly the slips of its
owner-state, each once, and the slips that wait for records or run read jobs are IN_WORK; without an adopted layout there
are no chains (R96, R98). -/
def Obligations.StepsKeepChains : Prop :=
  ∀ s t : State, s.PartInv → s.ChainInv → step s = .next t → t.ChainInv

/-- R176: under the store lockout no step changes a byte of the array, unless it ends the lockout; and every step keeps
a cut-off write waiting. -/
def Obligations.LockoutHoldsTheArray : Prop :=
  ∀ s t : State, s.LockoutInv → step s = .next t →
    t.LockoutInv ∧ (s.locked = true → t.archive.array = s.archive.array ∨ t.supply.state = .normal)

/-! ## Chains and misuse -/

/-- R99, R100, R78: an append of a HELD slip in READY is accepted. It joins the tail of its chain with its new
owner-state; an inbound append restarts a running silence timer and, after expiries, gives the silence monitor one
PASS. -/
def Obligations.AppendsAccepted : Prop :=
  ∀ (s : State) (x : Side) (off : Word) (l : Layout) (k : Nat), s.quiet →
    s.startUp.part = .ready → s.SlipAt x off l k → (s.chainsOf x).owner[k]? = some .held →
    let c := s.chainsOf x
    let freed : State := { s with chains := { s.chains with
      sides := s.chains.sides.set x { c with owner := c.owner.set k .free, free := c.free ++ [off] } } }
    let queued : State := { s with chains := { s.chains with
      sides := s.chains.sides.set x { c with owner := c.owner.set k .inbound, inbound := c.inbound ++ [off] } } }
    let limit := 10 * l.limit.get x
    let restarted : State := { queued with rides := { s.rides with
      silence := s.rides.silence.set x ⟨if limit = 0 then none else some limit, 0⟩ } }
    exec (.freeAppend x off) s = .next freed.showStatus ∧
    ((s.rides.silence.get x).remaining = none → exec (.inboundAppend x off) s = .next queued.showStatus) ∧
    ((s.rides.silence.get x).remaining ≠ none → (s.rides.silence.get x).expiries = 0 →
      exec (.inboundAppend x off) s = .next restarted.showStatus) ∧
    ((s.rides.silence.get x).remaining ≠ none → (s.rides.silence.get x).expiries ≠ 0 → s.numbersLeft →
      exec (.inboundAppend x off) s =
        .next (restarted.takeVerdict (silenceMonitor x) ⟨.pass, 0, none⟩).showStatus)

/-- R103, R104, R189: a refused append, a wrong-direction access and an access to an address without a register are one
misuse each, with cause codes 1, 2 and 3. A wrong read returns 0, and nothing else happens. -/
def Obligations.WrongAccessesAreMisuse : Prop :=
  ∀ (s : State) (x : Side), s.quiet → s.numbersLeft →
    let zero : State := { s with ports := s.ports.set x { s.ports.get x with readData := 0 } }
    (∀ off, ¬(s.startUp.part = .ready ∧ ∃ l k, s.SlipAt x off l k ∧ (s.chainsOf x).owner[k]? = some .held) →
      exec (.inboundAppend x off) s = .next (s.misuse x 1).showStatus ∧
      exec (.freeAppend x off) s = .next (s.misuse x 1).showStatus) ∧
    (∀ r, exec (.wrongDirectionAccess x r) s = .next ((match r with
      | .inboundAppend | .freeAppend => zero
      | .freeTake | .returnTake => s).misuse x 2).showStatus) ∧
    (∀ (a : Word) (d : Direction),
      0x800C < (evenAddress a).toNat ∨ ((evenAddress a).toNat = 0x800C ∧ x = .brake) →
      exec (.unassignedRegisterAccess x a d) s = .next ((match d with
        | .read => zero
        | .write => s).misuse x 3).showStatus)

/-- R108: a misuse counts in every part state. It latches MISUSE in READY and RESTARTING alone, and its FAIL, with the
cause code as measured value, reaches the side's misuse monitor in READY and is discarded otherwise. -/
def Obligations.MisuseRule : Prop :=
  ∀ (s : State) (x : Side) (cause : Word),
    let n := s.chains.misuse.get x
    let counted : State := { s with chains := { s.chains with
      misuse := s.chains.misuse.set x (if n = 0xFFFF then n else n + 1) } }
    let latched : State := { counted with
      ports := s.ports.set x { s.ports.get x with flags := (s.ports.get x).flags ||| 16 } }
    let monitor : MonitorId := if x = .engine then 98 else 99
    (s.startUp.part = .scanning ∨ s.startUp.part = .unconfigured → s.misuse x cause = counted) ∧
    (s.startUp.part = .restarting → s.misuse x cause = latched) ∧
    (s.startUp.part = .ready → s.misuse x cause = latched.takeVerdict monitor ⟨.fail, cause, none⟩)

/-- R101, R102, R111: in READY and RESTARTING a take removes the head of its chain, makes it HELD and returns its
offset, and a free take that crosses below the free-low mark latches FREE_LOW. A take of an empty chain, and any take
in another part state, returns 0 and changes nothing else. -/
def Obligations.TakesGiveTheHead : Prop :=
  ∀ (s : State) (x : Side),
    let p := s.ports.get x
    let c := s.chainsOf x
    let served := s.startUp.part = .ready ∨ s.startUp.part = .restarting
    (∀ slip rest l k, served → c.free = slip :: rest → s.SlipAt x slip l k →
      let low := l.mark.get x ≤ rest.length + 1 ∧ rest.length < l.mark.get x
      exec (.freeTake x) s = .next { s with
        chains := { s.chains with
          sides := s.chains.sides.set x { c with owner := c.owner.set k .held, free := rest } }
        ports := s.ports.set x { p with readData := slip, flags := if low then p.flags ||| 2 else p.flags } }) ∧
    (∀ slip rest l k, served → c.ret = slip :: rest → s.SlipAt x slip l k →
      exec (.returnTake x) s = .next { s with
        chains := { s.chains with
          sides := s.chains.sides.set x { c with owner := c.owner.set k .held, ret := rest } }
        ports := s.ports.set x { p with readData := slip } }) ∧
    (¬served ∨ c.free = [] →
      exec (.freeTake x) s = .next { s with ports := s.ports.set x { p with readData := 0 } }) ∧
    (¬served ∨ c.ret = [] →
      exec (.returnTake x) s = .next { s with ports := s.ports.set x { p with readData := 0 } })

/-! ## Notices and frames -/

/-- R81, R84, R85, R95, R109, R110, R189, R190: a write to *notice* clears the flags whose positions are set, and
RETURN_READY latches again at once while RETURN holds a slip; a write to *notice mask* replaces the six enables; what a plain
read returns, at every offset of exchange memory and in every state, 0 during the clearing; which word of the status area
stands at which offset; and the value that each status field shows while the device runs, the three of two words where no
read frame is in progress (what a read frame holds off is log 10, and that a device held in reset is read as in every other
state is log 12: the model's choice). -/
def Obligations.NoticesReadsAndStatus : Prop :=
  (∀ (s : State) (x : Side),
    let p := s.ports.get x
    (∀ v : Word,
      let kept := p.flags &&& ~~~(v.setWidth 6)
      exec (.noticeClear x v) s = .next { s with
        ports := s.ports.set x
          { p with flags := if v.getLsbD 0 = true ∧ (s.chainsOf x).ret ≠ [] then kept ||| 1 else kept } } ∧
      exec (.noticeMaskWrite x v) s = .next { s with ports := s.ports.set x { p with mask := v.setWidth 6 } }) ∧
    s.observe x 0x8008 = (p.flags &&& p.mask).setWidth 16 ∧
    s.observe x 0x800A = p.mask.setWidth 16 ∧
    s.observe x 0x800C = 0 ∧
    (p.lineAsserted = true ↔ s.observe x 0x8008 ≠ 0) ∧
    (∀ a : Word, a.toNat < 0x8000 → s.startUp.phase = .clearing → s.observe x a = 0) ∧
    (∀ a : Word, a.toNat < 0x8000 → s.startUp.phase ≠ .clearing →
      s.observe x a = s.exchange.readWord (2 * (a.toNat / 2)))) ∧
  (∀ (s : State) (x : Side), s.startUp.phase ≠ .clearing →
    let f := s.exchange.status
    let low := fun w : DWord => w.setWidth 16
    let high := fun w : DWord => (w >>> 16).setWidth 16
    (∀ a w, (a, w) ∈ [((0x80 : Word), f.partState), (0x82, f.layoutResult), (0x84, f.resetCause), (0x86, f.tornRecords),
        (0x88, f.duplicatesResolved), (0x8A, f.orphanRides), (0x8C, f.rideState), (0x8E, f.rideNumber),
        (0x90, low f.rideClock), (0x92, high f.rideClock), (0x94, f.openEpisodes), (0x96, f.untrackedOnsets),
        (0x98, f.slotsInUse), (0x9A, f.snapshotMisses), (0x9C, f.queueDepth), (0x9E, f.archiveState),
        (0xA0, f.liveSegments), (0xA2, f.vacantSegments), (0xA4, f.wornSegments), (0xA6, f.pinnedBytes)] ++
      [((0xA8 : Word), low f.pinGeneration), (0xAA, high f.pinGeneration), (0xAC, low f.nextSequence),
        (0xAE, high f.nextSequence), (0xB0, f.recordsDropped), (0xB2, f.retentionOverflows), (0xB4, f.carryStalls),
        (0xB6, f.misuseEngine), (0xB8, f.misuseBrake), (0xBA, f.ignoredEngine), (0xBC, f.ignoredBrake),
        (0xBE, f.heldVerdicts)] → s.observe x a = w) ∧
    (∀ a : Word, 0xC0 ≤ a.toNat → a.toNat < 0x100 → s.observe x a = 0)) ∧
  (∀ s : State, s.startUp.phase = .running →
    let f := s.showStatus.exchange.status
    let u := s.startUp
    let a := s.archive
    let count := fun n : Nat => BitVec.ofNat 16 n
    let segments := fun st : SegmentState => count ((indices 16).filter (fun i =>
      decide ((if a.entering = some i then .vacant else (a.segments.get i).state) = st))).length
    f.partState = (match u.part with
      | .scanning => 1
      | .unconfigured => 2
      | .ready => 3
      | .restarting => 4) ∧
    f.layoutResult = (match u.layoutResult with
      | .none => 0
      | .ok => 1
      | .badBoundary => 2
      | .badPool => 3
      | .badMark => 4
      | .badLimit => 5
      | .already => 6) ∧
    f.resetCause = (match u.cause with
      | .powerOn => 1
      | .supply => 2
      | .line => 3
      | .restart => 4) ∧
    f.tornRecords = u.tornRecords ∧ f.duplicatesResolved = u.duplicatesResolved ∧ f.orphanRides = u.orphanRides ∧
    f.rideState = (if s.rides.state = .riding then 1 else 0) ∧ f.rideNumber = s.rides.number ∧
    f.openEpisodes = count ((indices 24).filter (fun k => (s.episodes.table.get k).isSome)).length ∧
    f.untrackedOnsets = s.episodes.untrackedOnsets ∧
    f.slotsInUse = count ((indices 8).filter (fun i => (s.snaps.slots.get i).isSome)).length ∧
    f.snapshotMisses = s.snaps.misses ∧ f.queueDepth = count a.queue.length ∧
    f.archiveState = (if a.state = .stopped then 1 else 0) ∧
    f.liveSegments = segments .live ∧ f.vacantSegments = segments .vacant ∧ f.wornSegments = segments .worn ∧
    f.pinnedBytes = count a.pinnedBytes ∧ f.recordsDropped = a.recordsDropped ∧
    f.retentionOverflows = a.retentionOverflows ∧ f.carryStalls = a.carryStalls ∧
    f.misuseEngine = s.chains.misuse.engine ∧ f.misuseBrake = s.chains.misuse.brake ∧
    f.ignoredEngine = s.qual.ignored.engine ∧ f.ignoredBrake = s.qual.ignored.brake ∧
    f.heldVerdicts = s.qual.heldVerdicts ∧
    ((∀ x, (s.ports.get x).readFrame = none) → f.rideClock = s.rides.clock ∧ f.pinGeneration = a.pinGeneration ∧
      (a.sequenceCounter < 2 ^ 32 → f.nextSequence = BitVec.ofNat 32 a.sequenceCounter)))

/-- R188, R189: a port frame becomes the commands of its words. The address comes high byte first and even, each word is
2 above the one before and wraps, a word cut short and a frame of no such kind give nothing, a WRITE word is the command
of the register at its address, a READ word is one where the read changes something, whatever bytes the master clocks in
behind the address, and what a READ word shifts out. The model's choice: a READ frame holds the multi-word status fields of
R84 off while it runs (log 10), a word of exchange memory continues its frame when an earlier word of it lay there, a frame
wrapped from registers not yet (log 11), and the cut-off of a RESTART is an operand (log 4). -/
def Obligations.PortFramesBecomeCommands : Prop :=
  (∀ (x : Side) (cut : Cut) (f : PortFrame) (c : Instr), c ∈ frameCommands x cut f → c.wellFormed = true) ∧
  (∀ (x : Side) (cut : Cut) (n : Nat) (code b : Byte) (rest : List Byte),
    frameCommands x cut ⟨[], n⟩ = [] ∧ frameCommands x cut ⟨[code], n⟩ = [] ∧ frameCommands x cut ⟨[code, b], n⟩ = [] ∧
    (code ≠ 0x3C → code ≠ 0xC3 → frameCommands x cut ⟨code :: rest, n⟩ = [])) ∧
  (∀ (x : Side) (cut : Cut) (n : Nat) (high low : Byte) (words : List Word) (short : List Byte), short.length ≤ 1 →
    let start := 2 * ((256 * high.toNat + low.toNat) / 2)
    let address := fun i => BitVec.ofNat 16 (start + 2 * i)
    let earlier := fun i => decide (∃ j, j < i ∧ (address j).toNat < 0x8000)
    let data := words.flatMap (fun w : Word => [w.setWidth 8, (w >>> 8).setWidth 8]) ++ short
    frameCommands x cut ⟨0xC3 :: high :: low :: data, n⟩ = (List.range words.length).flatMap
      (fun i => wordWrite x cut (earlier i) (address i) (words.getD i 0)) ∧
    (∀ further : List Byte, frameCommands x cut ⟨0x3C :: high :: low :: further, 0⟩ = [] ∧
      (1 ≤ n → frameCommands x cut ⟨0x3C :: high :: low :: further, n⟩ =
        .statusFieldDeferredWrite x (.begins (address 0) n) ::
          (List.range n).flatMap (fun i => wordRead x (address i)) ++ [.statusFieldDeferredWrite x .ends]))) ∧
  (∀ (x : Side) (cut : Cut) (continued : Bool) (a v : Word),
    (a.toNat < 0x8000 → wordWrite x cut continued a v = [.exchangeMemoryWrite x continued a [v]] ∧ wordRead x a = []) ∧
    wordWrite x cut continued 0x8000 v = [.inboundAppend x v] ∧
    wordWrite x cut continued 0x8002 v = [.freeAppend x v] ∧
    wordWrite x cut continued 0x8004 v = [.wrongDirectionAccess x .freeTake] ∧
    wordWrite x cut continued 0x8006 v = [.wrongDirectionAccess x .returnTake] ∧
    wordWrite x cut continued 0x8008 v = [.noticeClear x v] ∧
    wordWrite x cut continued 0x800A v = [.noticeMaskWrite x v] ∧
    wordWrite .engine cut continued 0x800C 0x6A01 = [.adopt] ∧
    wordWrite .engine cut continued 0x800C 0x6A0E = [.restart cut] ∧
    (v ≠ 0x6A01 → v ≠ 0x6A0E → wordWrite .engine cut continued 0x800C v = []) ∧
    wordRead x 0x8000 = [.wrongDirectionAccess x .inboundAppend] ∧
    wordRead x 0x8002 = [.wrongDirectionAccess x .freeAppend] ∧
    wordRead x 0x8004 = [.freeTake x] ∧ wordRead x 0x8006 = [.returnTake x] ∧
    wordRead x 0x8008 = [] ∧ wordRead x 0x800A = [] ∧ wordRead .engine 0x800C = [] ∧
    (a.toNat % 2 = 0 → 0x800C < a.toNat ∨ (a = 0x800C ∧ x = .brake) →
      wordWrite x cut continued a v = [.unassignedRegisterAccess x a .write] ∧
      wordRead x a = [.unassignedRegisterAccess x a .read])) ∧
  (∀ (s : State) (x : Side) (a : Word),
    let served := s.startUp.part = .ready ∨ s.startUp.part = .restarting
    (a.toNat < 0x8000 ∨ a = 0x8008 ∨ a = 0x800A → s.wordOut x a = s.observe x a) ∧
    (a = 0x8000 ∨ a = 0x8002 ∨ 0x800C ≤ a.toNat → a.toNat % 2 = 0 → s.wordOut x a = 0) ∧
    (∀ slip rest, served → (s.chainsOf x).free = slip :: rest → s.wordOut x 0x8004 = slip) ∧
    (∀ slip rest, served → (s.chainsOf x).ret = slip :: rest → s.wordOut x 0x8006 = slip) ∧
    (¬served ∨ (s.chainsOf x).free = [] → s.wordOut x 0x8004 = 0) ∧
    (¬served ∨ (s.chainsOf x).ret = [] → s.wordOut x 0x8006 = 0)) ∧
  (∀ (s : State) (x : Side) (cut : Cut) (f : PortFrame),
    s.receive x cut f = s.withPending (s.pending ++ frameCommands x cut f))

/-! ## Adoption and RESTART -/

/-- R92: a valid layout takes effect, when an ADOPT is taken in UNCONFIGURED and when a remembered one is performed at
the end of start-up. The copy is taken, every slip of both pools is FREE in ascending offset order, the other chains are
empty, the result is OK, the part is READY, and READY latches on both ports. -/
def Obligations.AdoptionTakesEffect : Prop :=
  ∀ s : State,
    let w := fun a => (s.exchange.readWord a).toNat
    let l : Layout :=
      { boundary := w 0x00, pool := ⟨⟨w 0x02, w 0x04⟩, ⟨w 0x06, w 0x08⟩⟩, mark := ⟨w 0x0A, w 0x0C⟩,
        limit := ⟨w 0x0E, w 0x10⟩ }
    let full := fun p : Pool => ({
      owner := List.replicate p.count .free
      free := (List.range p.count).map (fun k => BitVec.ofNat 16 (p.base + 64 * k))
      inbound := []
      ret := [] } : Chains)
    let ready := fun p : Port => { p with flags := p.flags ||| 32 }
    let adopted : State := { s with
      exchange := { s.exchange with layout := some l }
      chains := { s.chains with sides := ⟨full l.pool.engine, full l.pool.brake⟩ }
      ports := ⟨ready s.ports.engine, ready s.ports.brake⟩
      startUp := { s.startUp with part := .ready, layoutResult := .ok } }
    l.validate = .ok →
      (s.quiet → s.startUp.part = .unconfigured → exec .adopt s = .next adopted.showStatus) ∧
      (s.startUp.adoptRemembered = true → s.endAdopt = { adopted with startUp := { adopted.startUp with
        phase := .running, clearingCut := false, adoptRemembered := false } })

/-- R91: the five checks in their order, the first that fails giving the result; a layout that passes takes effect, and
a failed validation writes the result code alone, whether an ADOPT is taken in UNCONFIGURED or a remembered one is
performed at the end of start-up. Beside it R90: an ADOPT in SCANNING is remembered, in READY it gives ALREADY, and in
RESTARTING it is ignored. -/
def Obligations.LayoutChecks : Prop :=
  (∀ l : Layout,
    let boundary := l.boundary % 0x100 = 0 ∧ 0x1000 ≤ l.boundary ∧ l.boundary ≤ 0x7000
    let pool := fun (p : Pool) (low high : Nat) =>
      4 ≤ p.count ∧ p.count ≤ 128 ∧ p.base % 64 = 0 ∧ low ≤ p.base ∧ p.base + 64 * p.count ≤ high
    let engine := pool l.pool.engine 0x100 l.boundary
    let brake := pool l.pool.brake l.boundary 0x8000
    let marks := ∀ x, l.mark.get x = 0 ∨ (1 ≤ l.mark.get x ∧ l.mark.get x ≤ (l.pool.get x).count)
    let limits := ∀ x, l.limit.get x = 0 ∨ (2 ≤ l.limit.get x ∧ l.limit.get x ≤ 255)
    (¬boundary → l.validate = .badBoundary) ∧
    (boundary → ¬engine → l.validate = .badPool) ∧
    (boundary → engine → ¬brake → l.validate = .badPool) ∧
    (boundary → engine → brake → ¬marks → l.validate = .badMark) ∧
    (boundary → engine → brake → marks → ¬limits → l.validate = .badLimit) ∧
    (boundary → engine → brake → marks → limits → l.validate = .ok)) ∧
  (∀ s : State, s.quiet → s.startUp.part = .unconfigured → s.exchange.readLayout.validate = .ok →
    ∃ t, exec .adopt s = .next t ∧ t.startUp = { s.startUp with part := .ready, layoutResult := .ok } ∧
      t.exchange.layout = some s.exchange.readLayout) ∧
  (∀ s : State, s.quiet → s.startUp.part = .unconfigured → s.exchange.readLayout.validate ≠ .ok →
    exec .adopt s = .next ({ s with startUp := { s.startUp with
      layoutResult := s.exchange.readLayout.validate } } : State).showStatus) ∧
  (∀ s : State, s.startUp.adoptRemembered = true → s.exchange.readLayout.validate ≠ .ok →
    s.endAdopt = { s with startUp := { s.startUp with
      phase := .running, clearingCut := false, adoptRemembered := false, part := .unconfigured,
      layoutResult := s.exchange.readLayout.validate } }) ∧
  (∀ s : State, s.quiet →
    (s.startUp.part = .scanning →
      exec .adopt s = .next { s with startUp := { s.startUp with adoptRemembered := true } }) ∧
    (s.startUp.part = .ready → exec .adopt s =
      .next ({ s with startUp := { s.startUp with layoutResult := .already } } : State).showStatus) ∧
    (s.startUp.part = .restarting → exec .adopt s = .next s))

/-- R178, R44, R57, R80, R93, R173: a RESTART in READY with something to write (a queued record, a ride or an episode to
close, an untracked FAILED monitor or a running capture) begins the drain. The part is RESTARTING, the drain timer stands at
500 ms, the ride is parked, no episode is open, the listed captures have ended, no read job runs, the queued records keep
their places, and nothing else changes: chains, slips, the array. In exchange memory the read jobs' control blocks alone
change, where they had yielded to a vacating under way (R170; that a vacating is under way before its command is log 33, the
model's choice). Outside READY a RESTART is ignored. -/
def Obligations.RestartBeginsTheDrain : Prop :=
  (∀ (s : State) (cut : Cut), s.startUp.part = .ready → s.quiet → s.archive.state = .running →
    s.offersLeft (127 + s.snaps.order.length) →
    s.archive.queue ≠ [] ∨ s.rides.state = .riding ∨ (∃ k, s.episodes.table.get k ≠ none) ∨
      (∃ m, (s.monitor m).state = .failed ∧ (s.monitor m).untracked = true) ∨
      (∃ i ∈ s.snaps.order, ∃ c, s.snaps.slots.get i = some c ∧ c.phase = .capturing) →
    ∃ t, exec (.restart cut) s = .next t ∧
      t.startUp = { s.startUp with part := .restarting, drain := some 500 } ∧
      t.rides = { s.rides with
        state := .parked
        silence := if s.rides.state = .riding then .both ⟨none, 0⟩ else s.rides.silence } ∧
      (∀ k, t.episodes.table.get k = none) ∧
      (∀ i ∈ s.snaps.order, ∀ c, t.snaps.slots.get i = some c → c.phase ≠ .capturing) ∧
      t.noJobs ∧ s.archive.queue <+: t.archive.queue ∧
      t.chains = s.chains ∧ t.intake = s.intake ∧ t.exchange.cells = (s.yieldVacating cut).exchange.cells ∧
      t.exchange.layout = s.exchange.layout ∧ t.archive.array = s.archive.array ∧ t.supply = s.supply ∧
      t.archive.queue ≠ []) ∧
  (∀ (s : State) (cut : Cut), s.startUp.part ≠ .ready → exec (.restart cut) s = .next s)

/-- R177, R178, R94: the drain ends at its timer, at the commit or the give-up that leaves the filing queue empty, and at
once for a RESTART that finds nothing to file; each takes the reset of kind RESTART. Exchange memory is kept, part state
SCANNING is written, and the scan begins. The model's choice: that what the scan is to set holds the values of log 20
until then, that how many units of a write under way are whole at the timer's expiry is its operand (log 4), that a reset
ends the read frame and the write frame in progress on a port (logs 10 and 11) and puts 0 into the model's own field for the
word last read (log 9), and that a vacating, to which read jobs have yielded, is under way before its command (log 33). -/
def Obligations.DrainEndsInTheReset : Prop :=
  (∀ (s : State) (n : Nat), s.PartInv → s.startUp.part = .restarting → s.startUp.drain = some 0 →
    ∃ t, exec (.drainTimerExpiry n) s = .next t ∧ s.AfterReset t .restart ∧ t.startUp.phase = .scanning ∧
      t.exchange.cells = s.exchange.cells ∧
      t.exchange.status = { s.exchange.status with partState := 1 } ∧ t.archive.array = s.stopOff n ∧
      t.supply.state = s.supply.state ∧ t.supply.settle = s.supply.settle) ∧
  (∀ (s : State) (cut : Cut), s.PartInv → s.quiet → s.startUp.part = .ready → s.rides.state = .parked →
    s.archive.queue = [] → (∀ k, s.episodes.table.get k = none) →
    (∀ m, (s.monitor m).state = .failed → (s.monitor m).untracked = false) →
    (∀ i ∈ s.snaps.order, ∀ c, s.snaps.slots.get i = some c → c.phase ≠ .capturing) →
    ∃ t, exec (.restart cut) s = .next t ∧ s.AfterReset t .restart ∧ t.startUp.phase = .scanning ∧
      t.exchange.cells = (s.yieldVacating cut).exchange.cells ∧ t.exchange.status.partState = 1 ∧
      t.archive.array = s.cutOff cut ∧ t.supply.state = s.supply.state) ∧
  (∀ (s : State) (d : Descriptor) (w : Work), s.PartInv → s.quiet → s.startUp.part = .restarting →
    s.archive.queue = [d] → s.archive.work = some w → w.item = .record → w.suspended = false →
    s.archive.preparation = none →
    let ended := fun (t : State) (array : Memory) (lost : Word) => s.AfterReset t .restart ∧ t.startUp.phase = .scanning ∧
      t.exchange.status.partState = 1 ∧ t.archive.array = array ∧ t.supply.state = s.supply.state ∧
      t.supply.settle = s.supply.settle ∧ (d.waiting = none → t.exchange.cells = s.exchange.cells) ∧
      (∀ x slip, d.record.body.kind = .summary → d.waiting = some (x, slip) →
        s.intake.waiting = [⟨x, slip, .rideClose, none, none⟩] →
        t.exchange.cells = (s.writeAnswer slip .ok lost 0).exchange.cells)
    (∃ t, exec .recordCommit s = .next t ∧ ended t s.archive.array 0) ∧
    (∀ flips array, d.attempt = .moved → failsToCompare flips = true →
      failedArray w flips s.archive.array = some array →
      ∃ t, exec (.verifyFailure flips) s = .next t ∧ ended t array 1))

/-- R80, R44, R57, R72, R73, R74, R178: a RESTART while RIDING closes the ride before it drains: the episodes and captures
end, the timers stop, the persistent fields are updated, the monitors are reset, and a summary flagged restart is the last
record queued, so the drain begins even where no record was queued. With the archive STOPPED the drain ends at once, in
the reset. The model's choice: what the scan is to set holds the values of log 20 until then, the reset ends the read frame
and the write frame in progress on a port (logs 10 and 11) and puts 0 into the model's own field for the word last read
(log 9), and a vacating, to which read jobs have yielded, is under way before its command (log 33). -/
def Obligations.RestartClosesTheRide : Prop :=
  (∀ (s : State) (cut : Cut), s.startUp.part = .ready → s.quiet → s.rides.state = .riding →
    s.archive.state = .running → s.offersLeft (127 + s.snaps.order.length) →
    s.archive.queue.length + s.episodes.openCount + s.qual.untrackedFailed.length + s.snaps.order.length < 48 →
    let closed : Monitor → Monitor := fun v =>
      let w := v.closeUpdate
      let parked : Monitor := if v.state = .disabled then { w with counter := 0 }
        else { w with state := .notRun, counter := 0, untracked := false }
      parked.adoptStaged
    ∃ t, exec (.restart cut) s = .next t ∧
      t.startUp = { s.startUp with part := .restarting, drain := some 500 } ∧
      t.rides = { s.rides with state := .parked, silence := .both ⟨none, 0⟩ } ∧
      (∀ k, t.episodes.table.get k = none) ∧
      (∀ i ∈ s.snaps.order, ∀ c, s.snaps.slots.get i = some c → c.phase = .capturing →
        ∀ d, t.snaps.slots.get i = some d → d.phase = .filing ∧ d.endCause = some .truncatedRestart) ∧
      (∀ m : MonitorId, t.monitor m = closed (s.monitor m)) ∧ t.noJobs ∧
      (∃ before d, t.archive.queue = s.archive.queue ++ before ++ [d] ∧ d.waiting = none ∧ d.attempt = .first ∧
        d.record.ride = s.rides.number ∧
        d.record.body = .summary s.rides.number false false true s.rides.odometer s.rides.clock
          (t.qual.monitors.cells.map Monitor.statusEntry)) ∧
      t.chains = s.chains ∧ t.intake = s.intake ∧ t.exchange.cells = (s.yieldVacating cut).exchange.cells ∧
      t.archive.array = s.archive.array ∧ t.supply = s.supply) ∧
  (∀ (s : State) (cut : Cut), s.startUp.part = .ready → s.PartInv → s.QueueInv → s.archive.state = .stopped →
    ∃ t, exec (.restart cut) s = .next t ∧ s.AfterReset t .restart ∧ t.startUp.phase = .scanning ∧
      t.exchange.cells = s.exchange.cells ∧ t.exchange.status.partState = 1 ∧ t.archive.array = s.archive.array ∧
      t.supply.state = s.supply.state)

/-! ## Exchange memory -/

/-- R86, R95: before adoption either port writes every word but those of the status area, and during the clearing no
word is written. Nothing else changes. That `continued` tells the pieces of a frame apart, and that the port begins a new
frame uncounted, is log 11 (the model's choice). -/
def Obligations.WritesBeforeAdoption : Prop :=
  ∀ (s : State) (x : Side) (cont : Bool) (a : Word) (data : List Word), s.quiet → s.StatusInv →
    s.MemoryInv → s.exchange.layout = none → (Instr.exchangeMemoryWrite x cont a data).wellFormed = true →
    let ports := if cont then s.ports else s.ports.set x { s.ports.get x with frameMisused := false }
    let first := 2 * (a.toNat / 2)
    (s.startUp.phase = .clearing → exec (.exchangeMemoryWrite x cont a data) s = .next { s with ports := ports }) ∧
    (s.startUp.phase ≠ .clearing → ∃ cells,
      exec (.exchangeMemoryWrite x cont a data) s = .next { s with
        ports := ports, exchange := { s.exchange with cells := cells } } ∧
      ∀ b,
        let written := first ≤ b ∧ b < first + 2 * data.length ∧ ¬(0x80 ≤ b ∧ b < 0x100)
        let word := data.getD ((b - first) / 2) 0
        (written → ({ s.exchange with cells := cells } : Exchange).readByte b =
          (if b % 2 = 0 then word.setWidth 8 else (word >>> 8).setWidth 8)) ∧
        (¬written → ({ s.exchange with cells := cells } : Exchange).readByte b = s.exchange.readByte b))

/-- R87, R88: after adoption a side's words are written in its own partition, and in the layout area for the engine
side, and are discarded elsewhere. A frame with a discarded word is one misuse of cause 4, which counts, latches MISUSE
and gives its FAIL as every misuse does; a frame without one changes nothing else. Which frame a command's words belong
to, and that the port keeps whether the frame has been counted, is log 11 (the model's choice). -/
def Obligations.WritesAfterAdoption : Prop :=
  ∀ (s : State) (x : Side) (cont : Bool) (a : Word) (data : List Word) (l : Layout), s.quiet →
    s.numbersLeft → s.MemoryInv → s.startUp.phase ≠ .clearing → s.exchange.layout = some l → 0x100 ≤ l.boundary →
    (Instr.exchangeMemoryWrite x cont a data).wellFormed = true →
    let allowed := fun w : Nat => match x with
      | .engine => w < 0x80 ∨ (0x100 ≤ w ∧ w < l.boundary)
      | .brake => l.boundary ≤ w ∧ w < 0x8000
    let first := 2 * (a.toNat / 2)
    let wrong := ∃ i, i < data.length ∧ ¬allowed (first + 2 * i)
    let before := cont = true ∧ (s.ports.get x).frameMisused = true
    let p := s.ports.get x
    ∃ cells : Memory,
      (∀ b,
        let written := first ≤ b ∧ b < first + 2 * data.length ∧ allowed (2 * (b / 2))
        let word := data.getD ((b - first) / 2) 0
        let after := ({ s.exchange with cells := cells } : Exchange).readByte b
        (written → after = (if b % 2 = 0 then word.setWidth 8 else (word >>> 8).setWidth 8)) ∧
        (¬written → after = s.exchange.readByte b)) ∧
      (¬wrong ∨ before → exec (.exchangeMemoryWrite x cont a data) s = .next ({ s with
        exchange := { s.exchange with cells := cells }
        ports := if cont then s.ports else s.ports.set x { p with frameMisused := false } } : State).showStatus) ∧
      (wrong ∧ ¬before → exec (.exchangeMemoryWrite x cont a data) s = .next (State.misuse ({ s with
        exchange := { s.exchange with cells := cells }
        ports := s.ports.set x { p with frameMisused := true } } : State) x 4).showStatus)

/-- R84, R188, logs 10 and 14: a read frame begins and ends by commands of its port, a 32-bit status field both of whose
words the frame covers, in whichever order and behind FFFEh going on at 0000h, keeps what it shows; a field that no frame
covers so shows its owner's value, and the end of the frame shows what was held off. -/
def Obligations.ReadFramesHoldFieldsOff : Prop :=
  (∀ (s : State) (x : Side) (start : Word) (n : Nat), 1 ≤ n →
    let p := s.ports.get x
    (s.StatusInv → p.readFrame = none → exec (.statusFieldDeferredWrite x (.begins start n)) s =
      .next { s with ports := s.ports.set x { p with readFrame := some (start &&& 0xFFFE, n) } }) ∧
    exec (.statusFieldDeferredWrite x .ends) s =
      .next ({ s with ports := s.ports.set x { p with readFrame := none } } : State).showStatus) ∧
  (∀ s : State, s.startUp.phase = .running → (∀ x start n, (s.ports.get x).readFrame = some (start, n) → start.toNat % 2 = 0) →
    let covers := fun (start : Word) (n a : Nat) => ∃ k, k < n ∧ (start.toNat + 2 * k) % 65536 = a
    let held := fun a => ∃ x start n, (s.ports.get x).readFrame = some (start, n) ∧ covers start n a ∧ covers start n (a + 2)
    let t := s.showStatus.exchange.status
    (held 0x90 → t.rideClock = s.exchange.status.rideClock) ∧ (¬held 0x90 → t.rideClock = s.rides.clock) ∧
    (held 0xA8 → t.pinGeneration = s.exchange.status.pinGeneration) ∧
    (¬held 0xA8 → t.pinGeneration = s.archive.pinGeneration) ∧
    (held 0xAC → t.nextSequence = s.exchange.status.nextSequence) ∧
    (¬held 0xAC → s.archive.sequenceCounter < 2 ^ 32 → t.nextSequence = BitVec.ofNat 32 s.archive.sequenceCounter))


/-! ## Intake -/

/-- R105, R113, R114: intake serves no slip outside READY; with one chain holding slips it serves that side, and with
both the side the pointer names; it takes the head of the chain. A command of the intake unit whose kind is not that of
this slip does nothing (log 2, the model's choice; the kind codes are R191's). -/
def Obligations.IntakeChoice : Prop :=
  ∀ s : State,
    let e := (s.chainsOf .engine).inbound
    let b := (s.chainsOf .brake).inbound
    (s.startUp.part ≠ .ready → s.nextSlip = none) ∧
    (e = [] → b = [] → s.nextSlip = none) ∧
    (s.startUp.part = .ready →
      (∀ slip rest, e = slip :: rest → b = [] → s.nextSlip = some (.engine, slip)) ∧
      (∀ slip rest, e = [] → b = slip :: rest → s.nextSlip = some (.brake, slip)) ∧
      (∀ slip rest, e = slip :: rest → b ≠ [] → s.intake.pointer = .engine → s.nextSlip = some (.engine, slip)) ∧
      (∀ slip rest, e ≠ [] → b = slip :: rest → s.intake.pointer = .brake → s.nextSlip = some (.brake, slip))) ∧
    (∀ (code : Word) (c : Instr),
      (code, c) ∈ [((1 : Word), Instr.verdict), (2, .context), (3, .rideOpen), (4, .rideClose), (5, .plan),
        (6, .episodeList), (7, .archiveRead), (8, .releasePinned), (9, .archiveWipe)] →
      (s.nextSlip = none → exec c s = .next s) ∧
      (∀ x slip, s.nextSlip = some (x, slip) → s.slipWord slip 0 ≠ code → exec c s = .next s) ∧
      (∀ x slip, s.nextSlip = some (x, slip) → s.slipWord slip 0 = code → exec .unknownKind s = .next s))

/-- R115, R191: an answer is written into the slip's header (result code, result detail and progress at offsets 6, 8
and 10, and ANSWERED at offset 2) and nothing else of exchange memory changes. -/
def Obligations.AnswersFillTheHeader : Prop :=
  ∀ (s : State) (slip : Word) (code : ResultCode) (detail progress : Word), s.MemoryInv → slipFits slip →
    let x := s.exchange
    let y := (s.writeAnswer slip code detail progress).exchange
    y.readWord (slip.toNat + 2) = x.readWord (slip.toNat + 2) ||| 1 ∧
    y.readWord (slip.toNat + 6) = code.code ∧
    y.readWord (slip.toNat + 8) = detail ∧
    y.readWord (slip.toNat + 10) = progress ∧
    (∀ b, ¬(slip.toNat + 2 ≤ b ∧ b < slip.toNat + 4) → ¬(slip.toNat + 6 ≤ b ∧ b < slip.toNat + 12) →
      y.readByte b = x.readByte b)

/-- R120, R7, R191: the six checks of a VERDICT body in their order, and the verdict that a well-formed one carries. -/
def Obligations.VerdictChecks : Prop :=
  ∀ (s : State) (x : Side) (slip : Word),
    let id := (s.slipWord slip 16).toNat
    let code := s.slipWord slip 18
    let repeats := (s.slipWord slip 22).toNat
    let timed := s.slipWord slip 24
    let own := match x with
      | .engine => id < 48
      | .brake => 48 ≤ id
    let r := s.verdictFields x slip
    (101 < id → r = .error 1) ∧
    (96 ≤ id → id ≤ 101 → r = .error 2) ∧
    (id < 96 → ¬own → r = .error 3) ∧
    (id < 96 → own → code ≠ 1 → code ≠ 2 → r = .error 4) ∧
    (id < 96 → own → code = 1 ∨ code = 2 → repeats < 1 ∨ 8 < repeats → r = .error 5) ∧
    (id < 96 → own → code = 1 ∨ code = 2 → 1 ≤ repeats → repeats ≤ 8 → 2 ≤ timed.toNat → r = .error 6) ∧
    (id < 96 → own → code = 1 ∨ code = 2 → 1 ≤ repeats → repeats ≤ 8 → timed.toNat ≤ 1 →
      ∃ m : MonitorId, m.val = id ∧ r = .ok (m,
        ⟨if code = 1 then .fail else .pass, s.slipWord slip 20,
          if timed = 1 then some (s.slipDword slip 26) else none⟩, repeats))

/-- R121, R7, R106: a well-formed VERDICT is one run of its repeats, each taken after the one before, and its slip
completes to FREE without an answer. -/
def Obligations.VerdictCompletes : Prop :=
  ∀ (s : State) (x : Side) (slip : Word) (m : MonitorId) (v : Verdict) (n : Nat), s.serves x slip .verdict →
    s.verdictFields x slip = .ok (m, v, n) → s.quiet → s.offersLeft 24 →
    ∃ t, exec .verdict s = .next t ∧
      t = (((s.moveToWork x slip).takeRun m v n).moveToFree x slip).showStatus ∧
      (∀ u : State, u.takeRun m v 0 = u ∧ ∀ i, u.takeRun m v (i + 1) = (u.takeVerdict m v).takeRun m v i) ∧
      (t.chainsOf x).inbound = (s.chainsOf x).inbound.tail ∧
      (t.chainsOf x).free = (s.chainsOf x).free ++ [slip] ∧ (t.chainsOf x).ret = (s.chainsOf x).ret ∧
      t.chainsOf x.other = s.chainsOf x.other ∧ t.chains.misuse = s.chains.misuse ∧
      t.intake = { s.intake with pointer := x.other } ∧ t.exchange.cells = s.exchange.cells ∧
      t.rides = s.rides ∧ t.supply = s.supply ∧ t.startUp = s.startUp

/-- R48, R49, R122: a well-formed CONTEXT becomes one frame, stamped with the ride clock and the side, which is the
newest of the at most six frames of the history ring; its slip completes to FREE without an answer. Beside it R54: a
capturing slot takes the frame after those it holds; with the last one wanted the capture ends COMPLETE, and before that
it goes on; a slot that is FREE, COMPLETE or FILING takes
nothing; and the frame enters the ring first and then the slots in the order in which their captures began. -/
def Obligations.ContextCompletes : Prop :=
  (∀ (s : State) (x : Side) (slip : Word), s.serves x slip .context → s.quiet →
    s.offersLeft s.snaps.order.length →
    let n := (s.slipWord slip 16).toNat
    1 ≤ n → n ≤ 6 → (∀ i, i < n → (s.slipWord slip (18 + 4 * i)).toNat ≤ 15) →
    let f : Frame := ⟨s.rides.clock, x, (List.range n).map (fun i =>
      ((s.slipWord slip (18 + 4 * i)).setWidth 4, s.slipWord slip (20 + 4 * i)))⟩
    let ring := s.snaps.ring ++ [f]
    ∃ t, exec .context s = .next t ∧
      t = (((s.moveToWork x slip).takeFrame f).moveToFree x slip).showStatus ∧
      t.snaps.ring = ring.drop (ring.length - 6) ∧
      (t.chainsOf x).inbound = (s.chainsOf x).inbound.tail ∧
      (t.chainsOf x).free = (s.chainsOf x).free ++ [slip] ∧ (t.chainsOf x).ret = (s.chainsOf x).ret ∧
      t.chainsOf x.other = s.chainsOf x.other ∧ t.chains.misuse = s.chains.misuse ∧
      t.intake = { s.intake with pointer := x.other } ∧ t.exchange.cells = s.exchange.cells ∧
      t.qual = s.qual ∧ t.rides = s.rides ∧ t.supply = s.supply ∧ t.startUp = s.startUp) ∧
  (∀ (s : State) (f : Frame) (i : Fin 8),
    (s.snaps.slots.get i = none → s.collectFrame f i = s) ∧
    (∀ c, s.snaps.slots.get i = some c → c.phase ≠ .capturing → s.collectFrame f i = s) ∧
    (∀ c, s.snaps.slots.get i = some c → c.phase = .capturing → c.post.length + 1 < c.postWanted →
      s.collectFrame f i = { s with snaps := { s.snaps with
        slots := s.snaps.slots.set i (some { c with post := c.post ++ [f] }) } }) ∧
    (∀ c, s.snaps.slots.get i = some c → c.phase = .capturing → c.post.length + 1 = c.postWanted →
      s.offersLeft 1 →
      let d := { c with post := c.post ++ [f], phase := SlotPhase.filing, timer := none, endCause := some .complete }
      (s.collectFrame f i).snaps.slots.get i = if s.archive.accepts (c.record i) then some d else none)) ∧
  (∀ (s : State) (f : Frame),
    let ring := s.snaps.ring ++ [f]
    s.takeFrame f = s.snaps.order.foldl (fun u i => u.collectFrame f i)
      { s with snaps := { s.snaps with ring := ring.drop (ring.length - 6) } })

/-- R87, R89, R123, R124: the checks of a window and of a plan table in their order, the first that fails giving the
detail, and what passes. -/
def Obligations.WindowAndTableChecks : Prop :=
  ∀ (l : Layout) (x : Side) (offset : Nat), 1 ≤ (l.pool.get x).count →
    let low := match x with
      | .engine => 0x100
      | .brake => l.boundary
    let high := match x with
      | .engine => l.boundary
      | .brake => 0x8000
    let mine := fun a => low ≤ a ∧ a < high
    let pool := l.pool.get x
    let outside := fun size => ∀ a, offset ≤ a → a < offset + size → ¬(pool.base ≤ a ∧ a < pool.base + 64 * pool.count)
    (∀ length,
      let legal := length % 2 = 0 ∧ 64 ≤ length ∧ length ≤ 4096
      let r := l.checkWindow x offset length
      (offset % 2 ≠ 0 → r = .error 1) ∧
      (offset % 2 = 0 → ¬legal → r = .error 2) ∧
      (offset % 2 = 0 → legal → ¬mine offset → r = .error 3) ∧
      (offset % 2 = 0 → legal → mine offset → ¬mine (offset + length - 1) → r = .error 4) ∧
      (offset % 2 = 0 → legal → mine offset → mine (offset + length - 1) → ¬outside length → r = .error 5) ∧
      (offset % 2 = 0 → legal → mine offset → mine (offset + length - 1) → outside length → r = .ok ())) ∧
    (∀ count, 1 ≤ count →
      let r := l.checkTable x offset count
      let last := offset + 16 * count - 1
      (offset % 2 ≠ 0 → r = .error 1) ∧
      (offset % 2 = 0 → ¬mine offset → r = .error 3) ∧
      (offset % 2 = 0 → mine offset → ¬mine last → r = .error 4) ∧
      (offset % 2 = 0 → mine offset → mine last → ¬outside (16 * count) → r = .error 5) ∧
      (offset % 2 = 0 → mine offset → mine last → outside (16 * count) → r = .ok ()))

/-- R115, R124, R125, R192: an accepted PLAN hands the entries of its table over in table order and is answered OK with the
numbers refused and staged. Its other answers are BAD_FIELD and WINDOW_FAULT. A table entry is 16 bytes, one byte per
field. -/
def Obligations.PlanCompletes : Prop :=
  ∀ (s : State) (x : Side) (slip : Word) (l : Layout), s.serves x slip .plan → s.quiet →
    s.exchange.layout = some l →
    let s1 := s.moveToWork x slip
    let offset := (s.slipWord slip 16).toNat
    let count := (s.slipWord slip 18).toNat
    let r := s.qual.takeEntries x ((List.range count).map (fun i => s.exchange.planEntry (offset + 16 * i)))
    (count < 1 ∨ 48 < count → exec .plan s = .next (s1.answer x slip .badField 1 0).showStatus) ∧
    (∀ detail, 1 ≤ count → count ≤ 48 → l.checkTable x offset count = .error detail →
      exec .plan s = .next (s1.answer x slip .windowFault detail 0).showStatus) ∧
    (1 ≤ count → count ≤ 48 → l.checkTable x offset count = .ok () →
      exec .plan s = .next (({ s1 with qual := r.1 } : State).answer x slip .ok (BitVec.ofNat 16 r.2.1)
        (BitVec.ofNat 16 r.2.2)).showStatus) ∧
    (∀ (q : Qualification) (e : PlanEntry) (rest : List PlanEntry),
      let one := q.takeEntry x e
      let all := one.1.takeEntries x rest
      q.takeEntries x [] = (q, 0, 0) ∧
      q.takeEntries x (e :: rest) = (all.1, all.2.1 + (if one.2 = .refused then 1 else 0),
        all.2.2 + (if one.2 = .staged then 1 else 0))) ∧
    (∀ (m : Exchange) (a : Nat),
      let byte := fun i => (m.readByte (a + i)).toNat
      m.planEntry a =
        { monitor := byte 0, enable := byte 1, cls := byte 2, failStep := byte 3, passStep := byte 4,
          failLimit := byte 5, passLimit := byte 6, jump := byte 7, suppressor := byte 8, confirmRides := byte 9,
          agingRides := byte 10, preFrames := byte 11, postFrames := byte 12 })

/-- R21, R22, R23: which PLAN entries are refused, and that an accepted one is staged on a FAILED monitor and adopted
otherwise. -/
def Obligations.PlanEntriesTaken : Prop :=
  ∀ (q : Qualification) (x : Side) (e : PlanEntry),
    let legal := (match x with
        | .engine => e.monitor < 48
        | .brake => 48 ≤ e.monitor ∧ e.monitor < 96) ∧
      e.enable ≤ 1 ∧ e.jump ≤ 1 ∧ e.cls ≤ 3 ∧ (1 ≤ e.failStep ∧ e.failStep ≤ 64) ∧
      (1 ≤ e.passStep ∧ e.passStep ≤ 64) ∧ (1 ≤ e.failLimit ∧ e.failLimit ≤ 64) ∧
      (1 ≤ e.passLimit ∧ e.passLimit ≤ 64) ∧ (1 ≤ e.confirmRides ∧ e.confirmRides ≤ 3) ∧
      (1 ≤ e.agingRides ∧ e.agingRides ≤ 40) ∧ e.preFrames ≤ 4 ∧ e.postFrames ≤ 7 ∧
      (e.suppressor = 255 ∨ e.suppressor ≤ 101)
    (¬legal → q.takeEntry x e = (q, .refused)) ∧
    (∀ (m : MonitorId) (sup : Option MonitorId), legal → m.val = e.monitor →
      (sup = none ↔ e.suppressor = 255) → (∀ p, sup = some p → p.val = e.suppressor) →
      let names := fun (j p : MonitorId) => ∃ g, ((q.monitors.get j).adopted = some g ∨
        (q.monitors.get j).staged = some g) ∧ g.suppressor = some p
      let breaks := ∃ p, sup = some p ∧
        (p = m ∨ (96 ≤ p.val ∧ p.val ≠ 100) ∨ (∃ o, names p o) ∨ (∃ j, j ≠ m ∧ names j m))
      let g : Settings :=
        { enable := e.enable == 1, cls := classOfCode e.cls, failStep := e.failStep, passStep := e.passStep,
          failLimit := e.failLimit, passLimit := e.passLimit, jump := e.jump == 1, suppressor := sup,
          confirmRides := e.confirmRides, agingRides := e.agingRides, preFrames := e.preFrames,
          postFrames := e.postFrames }
      let v := q.monitors.get m
      (breaks → q.takeEntry x e = (q, .refused)) ∧
      (¬breaks → v.state = .failed → q.takeEntry x e =
        ({ q with monitors := q.monitors.set m { v with staged := some g } }, .staged)) ∧
      (¬breaks → v.state ≠ .failed → q.takeEntry x e =
        ({ q with monitors := q.monitors.set m (v.adopt g) }, .adopted)))

/-- R24, R25, R72: adoption replaces the adopted settings in full and acts on state and counter by the table, keeps every
other field, and a clamped counter stays on its side of 0; staged settings are adopted where a monitor leaves FAILED, and
become absent; and what a ride close makes of the persistent fields, the first case that applies. -/
def Obligations.AdoptionAndRideCloseOfMonitors : Prop :=
  (∀ v : Monitor,
    (v.staged = none → v.adoptStaged = v) ∧
    (∀ g, v.staged = some g → v.adoptStaged = ({ v with staged := none } : Monitor).adopt g)) ∧
  (∀ (v : Monitor) (g : Settings),
    let clamped : Int := if (g.failLimit : Int) < v.counter then g.failLimit
      else if v.counter < -(g.passLimit : Int) then -(g.passLimit : Int) else v.counter
    (g.enable = false → v.adopt g = { v with adopted := some g, state := .disabled, counter := 0 }) ∧
    (g.enable = true → v.state = .disabled ∨ v.state = .notRun →
      v.adopt g = { v with adopted := some g, state := .notRun, counter := 0 }) ∧
    (g.enable = true → v.state = .passed ∨ v.state = .maturing →
      v.adopt g = { v with adopted := some g, counter := clamped }) ∧
    (1 ≤ g.failLimit → 1 ≤ g.passLimit → (v.counter ≤ 0 → clamped ≤ 0) ∧ (0 < v.counter → 0 < clamped))) ∧
  (∀ (v : Monitor) (g : Settings), v.adopted = some g →
    let fails := if v.failRides = 15 then v.failRides else v.failRides + 1
    let clean := if v.cleanRides = 255 then v.cleanRides else v.cleanRides + 1
    (v.state = .disabled → v.closeUpdate = v) ∧
    (v.state ≠ .disabled → v.failedThisRide = true → v.closeUpdate = { v with
      failRides := fails, cleanRides := 0, confirmed := v.confirmed || decide (g.confirmRides ≤ fails.toNat) }) ∧
    (v.state ≠ .disabled → v.failedThisRide = false → v.ran = true → v.confirmed = false →
      v.closeUpdate = { v with failRides := 0, cleanRides := clean }) ∧
    (v.state ≠ .disabled → v.failedThisRide = false → v.ran = true → v.confirmed = true →
      v.closeUpdate = if g.agingRides ≤ clean.toNat
        then { v with failRides := 0, cleanRides := clean, confirmed := false } else { v with cleanRides := clean }) ∧
    (v.state ≠ .disabled → v.failedThisRide = false → v.ran = false → v.closeUpdate = v))

/-- R46, R47, R123, R126: an EPISODE_LIST whose window passes copies whole episode entries in ascending number and,
when all fit, whole status entries in ascending id; it is answered OK or PARTIAL with both counts, and changes no
table. Beside it R26, R192: the 32 bytes of an episode entry and the 4 of a status entry. -/
def Obligations.EpisodeListCompletes : Prop :=
  (∀ (s : State) (x : Side) (slip : Word) (l : Layout), s.serves x slip .episodeList → s.quiet →
    s.exchange.layout = some l →
    let s1 := s.moveToWork x slip
    let offset := (s.slipWord slip 16).toNat
    let length := (s.slipWord slip 18).toNat
    let eps := s.episodes.listed
    let n := min eps.length (length / 32)
    let m := if n = eps.length then min 102 ((length - 32 * n) / 4) else 0
    let bytes := (eps.take n).flatMap Episode.entryBytes ++
      ((s.qual.monitors.cells.map Monitor.statusEntry).take m).flatMap dwordBytes
    (∀ detail, l.checkWindow x offset length = .error detail →
      exec .episodeList s = .next (s1.answer x slip .windowFault detail 0).showStatus) ∧
    (l.checkWindow x offset length = .ok () → eps.length = s.episodes.openCount →
      exec .episodeList s = .next (({ s1 with exchange := s.exchange.writeBytes offset bytes } : State).answer x slip
        (if n = eps.length ∧ m = 102 then .ok else .partially) (BitVec.ofNat 16 n) (BitVec.ofNat 16 m)).showStatus)) ∧
  (∀ p : Episodes, p.listed = p.byNumber.filterMap (fun k => p.table.get k)) ∧
  (∀ e : Episode,
    let two := fun w : Word => [w.setWidth 8, (w >>> 8).setWidth 8]
    let four := fun w : DWord => [w.setWidth 8, (w >>> 8).setWidth 8, (w >>> 16).setWidth 8, (w >>> 24).setWidth 8]
    let cls : Byte := match e.cls with
      | .information => 0
      | .drivability => 1
      | .emission => 2
      | .safety => 3
    e.entryBytes = four e.number ++
      [BitVec.ofNat 8 e.monitor.val, cls, if e.state = .active then 1 else 2,
        (if e.parked then 1 else 0) ||| (if e.onsetQueued then 2 else 0)] ++
      two e.ride ++ [match e.slot with | some i => BitVec.ofNat 8 i.val | none => 0xFF, 0] ++ four e.onsetClock ++
      four e.lastFailClock ++ two e.occurrences ++ two e.suppressed ++ two e.worst ++ [0, 0, 0, 0, 0, 0]) ∧
  (∀ v : Monitor,
    let state : BitVec 3 := match v.state with
      | .disabled => 0
      | .notRun => 1
      | .passed => 2
      | .maturing => 3
      | .failed => 4
    let bit := fun (b : Bool) (i : Nat) => v.statusEntry.getLsbD i = b
    v.statusEntry.extractLsb' 0 3 = state ∧ bit v.untracked 3 ∧ bit v.staged.isSome 4 ∧ bit v.confirmed 5 ∧
    bit v.ran 6 ∧ bit v.failedThisRide 7 ∧ v.statusEntry.extractLsb' 8 8 = v.failRides.setWidth 8 ∧
    v.statusEntry.extractLsb' 16 8 = v.cleanRides ∧ v.statusEntry.extractLsb' 24 8 = v.held)

/-- R64, R67, R68, R69, R25, R56, R77, R127, R175: an accepted RIDE_OPEN closes every episode, empties the history ring,
ends the listed captures TRUNCATED_RIDE, resets the monitors and adopts staged settings, begins the ride with clock 0, the
next ride number and the odometer of its body, arms both silence timers, and is answered OK with the new ride number. -/
def Obligations.RideOpenCompletes : Prop :=
  ∀ (s : State) (slip : Word) (l : Layout), s.serves .engine slip .rideOpen → s.quiet → s.rides.state = .parked →
    s.exchange.layout = some l → s.offersLeft (126 + s.snaps.order.length) →
    let number := if s.rides.number = 0xFFFF then s.rides.number else s.rides.number + 1
    let armed : Side → SilenceTimer := fun x =>
      ⟨if 10 * l.limit.get x = 0 then none else some (10 * l.limit.get x), 0⟩
    ∃ t, exec .rideOpen s = .next t ∧
      t.rides = ⟨.riding, 0, number, s.slipDword slip 16, ⟨armed .engine, armed .brake⟩⟩ ∧
      (∀ k, t.episodes.table.get k = none) ∧ t.snaps.ring = [] ∧
      (∀ i ∈ s.snaps.order, ∀ c, s.snaps.slots.get i = some c → c.phase = .capturing →
        ∀ d, t.snaps.slots.get i = some d → d = { c with
          phase := .filing, timer := none, endCause := some .truncatedRide }) ∧
      (∀ i, (∀ c, s.snaps.slots.get i = some c → c.phase ≠ .capturing) →
        t.snaps.slots.get i = s.snaps.slots.get i) ∧
      (∀ m : MonitorId, let v := s.monitor m
        let cleared : Monitor := { v with held := 0, ran := false, failedThisRide := false }
        let opened : Monitor := if v.state = .disabled then cleared
          else { cleared with state := .notRun, counter := 0, untracked := false }
        t.monitor m = opened.adoptStaged) ∧
      t.exchange.cells = (s.writeAnswer slip .ok number 0).exchange.cells ∧
      (t.chainsOf .engine).inbound = (s.chainsOf .engine).inbound.tail ∧
      (t.chainsOf .engine).ret = (s.chainsOf .engine).ret ++ [slip] ∧
      (t.chainsOf .engine).free = (s.chainsOf .engine).free ∧ t.chainsOf .brake = s.chainsOf .brake ∧
      s.archive.queue <+: t.archive.queue ∧ t.archive.array = s.archive.array ∧
      t.supply = { s.supply with dips := 0 } ∧ t.startUp = s.startUp

/-- R71, R56, R72, R73, R74, R75, R79: an accepted RIDE_CLOSE closes every episode, ends the listed captures
TRUNCATED_RIDE, stops the timers, turns the ride's flags into the persistent fields, resets the monitors and parks the
ride. Its summary is the last record queued, with the status entries of all monitors, and the slip waits for it. Where the
summary is dropped at its offer, no place being left for it or the archive being STOPPED, the slip is answered OK with
detail 1 at once. -/
def Obligations.RideCloseCompletes : Prop :=
  ∀ (s : State) (slip : Word), s.serves .engine slip .rideClose → s.quiet → s.rides.state = .riding →
    s.offersLeft (127 + s.snaps.order.length) →
    let closed : Monitor → Monitor := fun v =>
      let w := v.closeUpdate
      let parked : Monitor := if v.state = .disabled then { w with counter := 0 }
        else { w with state := .notRun, counter := 0, untracked := false }
      parked.adoptStaged
    ∃ t, exec .rideClose s = .next t ∧
      t.rides = { s.rides with state := .parked, silence := .both ⟨none, 0⟩ } ∧
      (∀ k, t.episodes.table.get k = none) ∧ t.snaps.ring = s.snaps.ring ∧
      (∀ i ∈ s.snaps.order, ∀ c, s.snaps.slots.get i = some c → c.phase = .capturing →
        ∀ d, t.snaps.slots.get i = some d → d = { c with
          phase := .filing, timer := none, endCause := some .truncatedRide }) ∧
      (∀ i, (∀ c, s.snaps.slots.get i = some c → c.phase ≠ .capturing) →
        t.snaps.slots.get i = s.snaps.slots.get i) ∧
      (∀ m : MonitorId, t.monitor m = closed (s.monitor m)) ∧
      (t.chainsOf .engine).inbound = (s.chainsOf .engine).inbound.tail ∧
      (t.chainsOf .engine).free = (s.chainsOf .engine).free ∧ t.chainsOf .brake = s.chainsOf .brake ∧
      t.archive.array = s.archive.array ∧ t.startUp = s.startUp ∧
      (let filed := (t.chainsOf .engine).ret = (s.chainsOf .engine).ret ∧ t.exchange.cells = s.exchange.cells ∧
         t.intake.waiting = s.intake.waiting ++ [⟨.engine, slip, .rideClose, none, none⟩] ∧
         ∃ before d, t.archive.queue = s.archive.queue ++ before ++ [d] ∧ d.waiting = some (.engine, slip) ∧
           d.attempt = .first ∧ d.record.ride = s.rides.number ∧
           d.record.body = .summary s.rides.number false false false s.rides.odometer s.rides.clock
             (t.qual.monitors.cells.map Monitor.statusEntry)
       let dropped := (t.chainsOf .engine).ret = (s.chainsOf .engine).ret ++ [slip] ∧
         t.intake.waiting = s.intake.waiting ∧ t.exchange.cells = (s.writeAnswer slip .ok 1 0).exchange.cells ∧
         s.archive.queue <+: t.archive.queue ∧ ∀ x, (t.ports.get x).isLatched .archiveAlert = true
       let running := s.archive.state = .running
       let unheard := ∀ w ∈ s.intake.waiting, w.side = .engine → w.slip ≠ slip
       (running → s.archive.queue.length + s.episodes.openCount + s.qual.untrackedFailed.length +
         s.snaps.order.length < 48 → filed) ∧
       (running → unheard → filed ∨ (dropped ∧ 48 ≤ t.archive.queue.length)) ∧
       (running → unheard → 48 ≤ s.archive.queue.length → dropped ∧ t.archive.queue = s.archive.queue) ∧
       (s.archive.state = .stopped → unheard → dropped))


/-! ## Archive requests -/

/-- R123, R131, R132, R168: the answers to an ARCHIVE_READ in the order of its checks, the read job of an accepted one,
and the position the job starts from. -/
def Obligations.ArchiveReadStarts : Prop :=
  (∀ (s : State) (x : Side) (slip : Word) (l : Layout), s.serves x slip .archiveRead → s.quiet →
    s.exchange.layout = some l →
    let s1 := s.moveToWork x slip
    let kinds := s.slipWord slip 26
    let classes := s.slipWord slip 28
    let q := s.slipDword slip 20
    let off := (s.slipWord slip 24).toNat
    let winOff := (s.slipWord slip 16).toNat
    let winLen := (s.slipWord slip 18).toNat
    let kindsGood := 1 ≤ kinds.toNat ∧ kinds.toNat < 32
    let classesGood := 1 ≤ classes.toNat ∧ classes.toNat < 16
    let cursorGood := q = 0 ∨ (off % 8 = 0 ∧ 32 ≤ off ∧ off ≤ 4088)
    let answered := fun (code : ResultCode) (detail : Word) =>
      exec .archiveRead s = .next (s1.answer x slip code detail 0).showStatus
    let p := s.archive.startPosition q off
    (¬kindsGood → answered .badField 1) ∧
    (kindsGood → ¬classesGood → answered .badField 2) ∧
    (kindsGood → classesGood → ¬cursorGood → answered .badField 3) ∧
    (kindsGood → classesGood → cursorGood →
      (∀ detail, l.checkWindow x winOff winLen = .error detail → answered .windowFault detail) ∧
      (l.checkWindow x winOff winLen = .ok () →
        ((s.archive.jobs.get x).isSome = true ∨ s.intake.wipeWaiting = true → answered .busy 0) ∧
        (s.archive.jobs.get x = none → s.intake.wipeWaiting = false → s.archive.state = .stopped →
          answered .aborted 0) ∧
        (s.archive.jobs.get x = none → s.intake.wipeWaiting = false → s.archive.state = .running →
          exec .archiveRead s = .next ({ s1 with archive := { s.archive with
            jobs := s.archive.jobs.set x (some
              { slip := slip, windowOffset := winOff, windowLength := winLen, kinds := kinds, classes := classes,
                lowestRide := s.slipWord slip 30, sequence := p.1, offset := p.2.1, bytesWritten := 0,
                recordsCopied := 0, gap := p.2.2, partDone := false }) } } : State).showStatus)))) ∧
  (∀ (a : Archive) (q : DWord) (off : Nat),
    let live := fun i => (a.segments.get i).state = .live
    let sq := fun i => (a.segments.get i).sequence.toNat
    (∀ i, live i → (∀ j, live j → sq i ≤ sq j) →
      a.startPosition 0 off = ((a.segments.get i).sequence, 32, false)) ∧
    (q ≠ 0 → (∃ i, live i ∧ sq i = q.toNat) → a.startPosition q off = (q, off, false)) ∧
    (∀ i, q ≠ 0 → (∀ j, live j → sq j ≠ q.toNat) → live i → q.toNat < sq i →
      (∀ j, live j → q.toNat < sq j → sq i ≤ sq j) →
      a.startPosition q off = ((a.segments.get i).sequence, 32, true)) ∧
    (q ≠ 0 → (∀ j, live j → sq j < q.toNat) → a.startPosition q off = (q, off, false)))

/-- R129, R134, R147, R157: an accepted RELEASE_PINNED whose marker finds a place queues a MARKER with the next pin
generation, which is current from then on with no byte pinned, and its slip waits; a dropped marker gives OK with
detail 1 at once. -/
def Obligations.ReleaseCompletes : Prop :=
  ∀ (s : State) (slip : Word), s.serves .engine slip .releasePinned → s.quiet → s.offersLeft 1 →
    s.rides.state = .parked → s.archive.state = .running →
    let s1 := s.moveToWork .engine slip
    let g := s.archive.pinGeneration
    let d : Descriptor :=
      { record := ⟨.marker .release (g + 1), .information, s.rides.number, none, .device, 0⟩
        sequence := BitVec.ofNat 32 s.archive.sequenceCounter, pinned := false, generation := g + 1
        waiting := some (.engine, slip), attempt := .first }
    (s.archive.queue.length < 48 → g.toNat < 0xFFFFFFFF → exec .releasePinned s = .next ({ s1 with
      intake := { s1.intake with waiting := s.intake.waiting ++ [⟨.engine, slip, .release, none, none⟩] }
      archive := { s.archive with
        sequenceCounter := s.archive.sequenceCounter + 1, pinGeneration := g + 1, pinnedBytes := 0
        queue := s.archive.queue ++ [d] } } : State).showStatus) ∧
    (48 ≤ s.archive.queue.length ∨ g.toNat = 0xFFFFFFFF → (∀ w ∈ s.intake.waiting, w.side = .engine → w.slip ≠ slip) →
      ∃ t, exec .releasePinned s = .next t ∧
        t.archive = { s.archive with recordsDropped := satInc s.archive.recordsDropped } ∧
        t.exchange.cells = (s.writeAnswer slip .ok 1 0).exchange.cells ∧
        (t.chainsOf .engine).ret = (s.chainsOf .engine).ret ++ [slip] ∧ t.intake.waiting = s.intake.waiting)

/-- R129, R136, R137, R4: the refusals of ARCHIVE_WIPE in the order of its checks; an accepted one queues the WIPE
marker and then the wipe summary, zeroes the persistent fields of all monitors, and its slip waits with the
wipe-waiting mark present. With one place left the marker takes it and the summary is dropped; with none left both are
dropped, and the slip is answered OK with detail 3 at once. -/
def Obligations.WipeCompletes : Prop :=
  ∀ (s : State) (slip : Word), s.serves .engine slip .archiveWipe → s.quiet →
    let s1 := s.moveToWork .engine slip
    let answered := fun (code : ResultCode) (detail : Word) =>
      exec .archiveWipe s = .next (s1.answer .engine slip code detail 0).showStatus
    let parked := s.rides.state = .parked
    let closed := s.episodes.openCount = 0
    let idle := s.noJobs
    (¬parked → answered .refusedState 1) ∧
    (parked → ¬closed → answered .refusedState 2) ∧
    (parked → closed → ¬idle → answered .busy 1) ∧
    (parked → closed → idle → s.intake.wipeWaiting = true → answered .busy 2) ∧
    (parked → closed → idle → s.intake.wipeWaiting = false → s.archive.state = .stopped → answered .storeStopped 0) ∧
    (parked → closed → idle → s.intake.wipeWaiting = false → s.archive.state = .running →
      s.archive.queue.length < 47 → s.offersLeft 2 →
      ∃ t marker summary, exec .archiveWipe s = .next t ∧
        t.archive.queue = s.archive.queue ++ [marker, summary] ∧
        marker.record.body = .marker .wipe s.archive.pinGeneration ∧ marker.waiting = some (.engine, slip) ∧
        summary.record.body = .summary s.rides.number false true false s.rides.odometer 0
          (t.qual.monitors.cells.map Monitor.statusEntry) ∧ summary.waiting = some (.engine, slip) ∧
        (∀ m, t.monitor m = { s.monitor m with failRides := 0, cleanRides := 0, confirmed := false }) ∧
        t.intake.wipeWaiting = true ∧
        t.intake.waiting = s.intake.waiting ++ [⟨.engine, slip, .wipe, none, none⟩] ∧
        (t.chainsOf .engine).ret = (s.chainsOf .engine).ret ∧ t.exchange.cells = s.exchange.cells ∧
        t.archive.pinGeneration = s.archive.pinGeneration ∧ t.archive.pinnedBytes = s.archive.pinnedBytes ∧
        t.archive.array = s.archive.array ∧ t.rides = s.rides) ∧
    (parked → closed → idle → s.intake.wipeWaiting = false → s.archive.state = .running → 47 ≤ s.archive.queue.length →
      s.offersLeft 2 → (∀ w ∈ s.intake.waiting, w.side = .engine → w.slip ≠ slip) →
      ∃ t, exec .archiveWipe s = .next t ∧
        (∀ m, t.monitor m = { s.monitor m with failRides := 0, cleanRides := 0, confirmed := false }) ∧
        (∀ x, (t.ports.get x).isLatched .archiveAlert = true) ∧
        t.archive.pinGeneration = s.archive.pinGeneration ∧ t.archive.pinnedBytes = s.archive.pinnedBytes ∧
        t.archive.array = s.archive.array ∧ t.rides = s.rides ∧
        (s.archive.queue.length = 47 → (∃ marker, t.archive.queue = s.archive.queue ++ [marker] ∧
            marker.record.body = .marker .wipe s.archive.pinGeneration ∧ marker.waiting = some (.engine, slip)) ∧
          t.intake.wipeWaiting = true ∧
          t.intake.waiting = s.intake.waiting ++ [⟨.engine, slip, .wipe, none, some .dropped⟩] ∧
          (t.chainsOf .engine).ret = (s.chainsOf .engine).ret ∧ t.exchange.cells = s.exchange.cells) ∧
        (48 ≤ s.archive.queue.length → t.archive.queue = s.archive.queue ∧ t.intake.wipeWaiting = false ∧
          t.intake.waiting = s.intake.waiting ∧ (t.chainsOf .engine).ret = (s.chainsOf .engine).ret ++ [slip] ∧
          t.exchange.cells = (s.writeAnswer slip .ok 3 0).exchange.cells))

/-- R133: after the side check, RELEASE_PINNED is refused while RIDING, then while the archive is STOPPED, and a refusal
changes no pin, no generation and no queue. Beside it R117, R68, R71: from the brake side RIDE_OPEN, RIDE_CLOSE,
RELEASE_PINNED and ARCHIVE_WIPE are answered REFUSED_SIDE; from the engine side a RIDE_OPEN while RIDING and a RIDE_CLOSE
while PARKED are answered REFUSED_STATE. No such answer does anything else. -/
def Obligations.RequestRefusals : Prop :=
  ∀ (s : State) (slip : Word), s.quiet →
    let answered := fun (x : Side) (code : ResultCode) => ((s.moveToWork x slip).answer x slip code 0 0).showStatus
    (s.serves .engine slip .releasePinned → s.rides.state = .riding →
      exec .releasePinned s = .next (answered .engine .refusedState)) ∧
    (s.serves .engine slip .releasePinned → s.rides.state = .parked → s.archive.state = .stopped →
      exec .releasePinned s = .next (answered .engine .storeStopped)) ∧
    (∀ x code, (answered x code).archive = s.archive) ∧
    (s.serves .brake slip .rideOpen → exec .rideOpen s = .next (answered .brake .refusedSide)) ∧
    (s.serves .brake slip .rideClose → exec .rideClose s = .next (answered .brake .refusedSide)) ∧
    (s.serves .brake slip .releasePinned → exec .releasePinned s = .next (answered .brake .refusedSide)) ∧
    (s.serves .brake slip .archiveWipe → exec .archiveWipe s = .next (answered .brake .refusedSide)) ∧
    (s.serves .engine slip .rideOpen → s.rides.state = .riding →
      exec .rideOpen s = .next (answered .engine .refusedState)) ∧
    (s.serves .engine slip .rideClose → s.rides.state = .parked →
      exec .rideClose s = .next (answered .engine .refusedState))

/-- R116: a slip whose kind is none of the nine is answered BAD_FIELD with the kind value as detail and progress 0, is a
misuse of cause 6, and completes to RETURN. Beside it R119, R120, R122: a malformed VERDICT or CONTEXT is answered
BAD_FIELD with its detail, is a misuse of cause 5, and completes to RETURN. -/
def Obligations.UnknownKindReturns : Prop :=
  ∀ (s : State) (x : Side) (slip : Word), s.nextSlip = some (x, slip) → s.quiet → s.numbersLeft →
    let kind := s.slipWord slip 0
    let returned := fun (detail cause : Word) =>
      ((((s.moveToWork x slip).writeAnswer slip .badField detail 0).misuse x cause).moveToReturn x slip).showStatus
    (kind = 0 ∨ 9 < kind.toNat → exec .unknownKind s = .next (returned kind 6)) ∧
    (∀ detail, kind = 1 → s.verdictFields x slip = .error detail → exec .verdict s = .next (returned detail 5)) ∧
    (∀ detail, kind = 2 → s.contextFrame x slip = .error detail → exec .context s = .next (returned detail 5)) ∧
    (let n := (s.slipWord slip 16).toNat
     (n < 1 ∨ 6 < n → s.contextFrame x slip = .error 1) ∧
     (1 ≤ n → n ≤ 6 → (∃ i, i < n ∧ 15 < (s.slipWord slip (18 + 4 * i)).toNat) →
       s.contextFrame x slip = .error 2))

/-! ## Verdicts and episodes -/

/-- R10, R11, R12, R15, R34, R35: an applied FAIL steps the counter and brings an onset, an occurrence, or MATURING or
PASSED. Beside it R28: a change of a monitor's open episode changes that entry of the table alone, and nothing where the
monitor has none. -/
def Obligations.FailsApplied : Prop :=
  (∀ (s : State) (m : MonitorId) (g : Settings) (value : Word) (time : Option DWord), s.startUp.part = .ready →
    (s.monitor m).adopted = some g → (s.monitor m).state ≠ .disabled →
    (∀ p, g.suppressor = some p → (s.monitor p).state ≠ .failed) →
    let v := s.monitor m
    let riding := decide (s.rides.state = .riding)
    let lifted : Int := if g.jump = true ∧ v.counter < 0 then 0 else v.counter
    let c : Int := if (g.failLimit : Int) < lifted + g.failStep then g.failLimit else lifted + g.failStep
    let stepped : Monitor := { v with counter := c, ran := v.ran || riding }
    let t := s.takeVerdict m ⟨.fail, value, time⟩
    (v.state ≠ .failed → c = g.failLimit →
      t = (s.setMonitor m { stepped with state := .failed, failedThisRide := v.failedThisRide || riding }).takeOnset
        ⟨m, g.cls, value, time, g.failLimit, g.preFrames, g.postFrames⟩) ∧
    (v.state = .failed → t = (s.setMonitor m stepped).updateEpisode m (fun e => { e with
      occurrences := if e.occurrences = 0xFFFF then e.occurrences else e.occurrences + 1
      worst := if e.worst.toInt.natAbs < value.toInt.natAbs then value else e.worst
      lastFailClock := s.rides.clock
      state := if 0 < c then .active else .healing })) ∧
    (v.state ≠ .failed → c ≠ g.failLimit →
      t = s.setMonitor m { stepped with state := if 0 < c then .maturing else .passed })) ∧
  (∀ (s : State) (m : MonitorId) (f : Episode → Episode),
    ((∀ k e, s.episodes.table.get k = some e → e.monitor ≠ m) → s.updateEpisode m f = s) ∧
    (∀ k e, s.episodes.table.get k = some e → e.monitor = m →
      (∀ j p, s.episodes.table.get j = some p → p.monitor = m → j = k) →
      s.episodes.entryOf m = some k ∧
      s.updateEpisode m f = { s with episodes := { s.episodes with
        table := s.episodes.table.set k (some (f e)) } }))

/-- R13, R14, R15, R37, R42, R43: an applied PASS steps the counter down and brings a heal, a change of the episode's
state, or PASSED or MATURING. The heal of a tracked monitor offers the CLOSE record of its episode with cause HEALED, that
of an untracked one the untracked CLOSE record. -/
def Obligations.PassesApplied : Prop :=
  ∀ (s : State) (m : MonitorId) (g : Settings) (value : Word) (time : Option DWord), s.startUp.part = .ready →
    (s.monitor m).adopted = some g → (s.monitor m).state ≠ .disabled →
    let v := s.monitor m
    let low : Int := -(g.passLimit : Int)
    let c : Int := if v.counter - g.passStep < low then low else v.counter - g.passStep
    let stepped : Monitor := { v with counter := c, ran := v.ran || decide (s.rides.state = .riding) }
    let t := s.takeVerdict m ⟨.pass, value, time⟩
    let origin : MonitorId → Origin := fun n => if n.val < 48 then .engine else if n.val < 96 then .brake else .device
    (v.state = .failed → c = low → s.offersLeft 1 →
      t.monitor m = ({ stepped with state := .passed, untracked := false } : Monitor).adoptStaged ∧
      (∀ k e, s.episodes.entryOf m = some k → s.episodes.table.get k = some e →
        t.episodes.table.get k = none ∧ t.archive = (s.offer
          { body := .close .healed false e.worst (s.rides.clock - e.onsetClock) e.lastFailClock e.occurrences e.suppressed
            cls := e.cls, ride := e.ride, monitor := some e.monitor, origin := origin e.monitor
            episode := e.number } none).1.archive) ∧
      (s.episodes.entryOf m = none → v.untracked = true → t.archive = (s.offer
        { body := .close .healed true 0 0 0 0 0, cls := g.cls, ride := s.rides.number, monitor := some m
          origin := origin m, episode := 0 } none).1.archive) ∧
      (s.episodes.entryOf m = none → v.untracked = false → t.archive = s.archive)) ∧
    (v.state = .failed → c ≠ low → t = (s.setMonitor m stepped).updateEpisode m (fun e => { e with
      state := if 0 < c then .active else .healing })) ∧
    (v.state ≠ .failed → t = s.setMonitor m { stepped with state := if 0 < c then .maturing else .passed })

/-- R7, R8, R9, R36: a verdict outside READY is discarded, one to a DISABLED monitor is ignored and counted for its
side, and a FAIL whose suppressor is FAILED is held and counted; nothing else changes. -/
def Obligations.VerdictsNotApplied : Prop :=
  ∀ (s : State) (m : MonitorId) (v : Verdict),
    let x : Side := if m.val < 48 then .engine else .brake
    let n := s.qual.ignored.get x
    let ignored : State := { s with qual := { s.qual with
      ignored := s.qual.ignored.set x (if n = 0xFFFF then n else n + 1) } }
    (s.startUp.part ≠ .ready → s.takeVerdict m v = s) ∧
    (s.startUp.part = .ready → (s.monitor m).adopted = none ∨ (s.monitor m).state = .disabled →
      s.takeVerdict m v = ignored) ∧
    (∀ g p, s.startUp.part = .ready → (s.monitor m).adopted = some g → (s.monitor m).state ≠ .disabled →
      v.kind = .fail → g.suppressor = some p → (s.monitor p).state = .failed →
      s.takeVerdict m v = State.updateEpisode ({ s with qual := { s.qual with
        monitors := s.qual.monitors.set m { s.monitor m with held := satInc (s.monitor m).held }
        heldVerdicts := satInc s.qual.heldVerdicts } } : State) m (fun e => { e with
          suppressed := satInc e.suppressed }))

/-- R27, R29, R30, R31, R32, R33, R39, R40, R52, R53: an onset opens an episode in the lowest unused entry, or in the entry
of the episode it evicts, or, with neither, leaves its monitor untracked and is counted. Its capture request takes the
lowest FREE slot if its class finds enough of them, which holds the newest frames of the ring and runs for 2000 ms, or
counts a miss. -/
def Obligations.OnsetsOpenEpisodes : Prop :=
  (∀ (s : State) (o : Onset), s.offersLeft 3 →
    let t := s.takeOnset o
    let origin : Origin := if o.monitor.val < 48 then .engine else if o.monitor.val < 96 then .brake else .device
    let r : Record :=
      { body := .onset s.rides.clock o.value o.failLimit false (decide (s.rides.state = .parked)) o.time, cls := o.cls
        ride := s.rides.number, monitor := some o.monitor, origin := origin, episode := s.episodes.counter }
    let next := if s.episodes.counter = 0xFFFFFFFF then 1 else s.episodes.counter + 1
    let ports : List Side := if 100 ≤ o.monitor.val then [.engine, .brake]
      else if o.monitor.val < 48 ∨ o.monitor.val = 96 ∨ o.monitor.val = 98 then [.engine] else [.brake]
    (∀ k rest, s.episodes.unused = k :: rest →
      (∃ slot, t.episodes.table.get k = some
        { number := s.episodes.counter, monitor := o.monitor, cls := o.cls, state := .active, ride := s.rides.number,
          onsetClock := s.rides.clock, lastFailClock := s.rides.clock, occurrences := 1, suppressed := 0,
          worst := o.value, parked := decide (s.rides.state = .parked), slot := slot,
          onsetQueued := s.archive.accepts r } ∧
        (o.preFrames + o.postFrames = 0 → slot = none) ∧ (0 < o.postFrames → slot = s.snaps.slotFor o.cls) ∧
        (0 < o.preFrames → o.postFrames = 0 → slot = match s.snaps.slotFor o.cls with
          | none => none
          | some i => if (s.offer r none).1.archive.accepts
              { body := .snapshot i, cls := o.cls, ride := s.rides.number, monitor := some o.monitor, origin := origin,
                episode := s.episodes.counter } then some i else none)) ∧
      (let e : Episode :=
         { number := s.episodes.counter, monitor := o.monitor, cls := o.cls, state := .active, ride := s.rides.number
           onsetClock := s.rides.clock, lastFailClock := s.rides.clock, occurrences := 1, suppressed := 0
           worst := o.value, parked := decide (s.rides.state = .parked), slot := none, onsetQueued := false }
       t.snaps = ((s.offer r none).1.requestCapture k e o.preFrames o.postFrames).snaps) ∧
      t.episodes.counter = next ∧ (∀ x ∈ ports, (t.ports.get x).isLatched .onset = true) ∧
      (∀ x, x ∉ ports → (t.ports.get x).isLatched .onset = (s.ports.get x).isLatched .onset) ∧
      (∀ j, j ≠ k → (∀ e, s.episodes.table.get j = some e → e.number ≠ s.episodes.counter) →
        t.episodes.table.get j = s.episodes.table.get j) ∧
      (s.archive.accepts r = true → ∃ d rest, t.archive.queue = s.archive.queue ++ d :: rest ∧ d.record = r)) ∧
    (∀ k e, s.episodes.unused = [] → s.episodes.candidate o.cls = some k → s.episodes.table.get k = some e →
      t = (s.evict k).takeOnset o ∧ (s.evict k).episodes.unused = [k] ∧
      (t.monitor e.monitor).untracked = true ∧ t.episodes.counter = next ∧
      (∀ x ∈ ports, (t.ports.get x).isLatched .onset = true) ∧
      (∀ x, x ∉ ports → (t.ports.get x).isLatched .onset = (s.ports.get x).isLatched .onset) ∧
      ∃ f, t.episodes.table.get k = some f ∧ f.monitor = o.monitor ∧ f.number = s.episodes.counter) ∧
    (s.episodes.unused = [] → s.episodes.candidate o.cls = none →
      t.episodes = { s.episodes with untrackedOnsets := satInc s.episodes.untrackedOnsets } ∧
      (t.monitor o.monitor).untracked = true ∧ t.snaps = s.snaps ∧
      ∀ x, (t.ports.get x).isLatched .onset = (s.ports.get x).isLatched .onset)) ∧
  (∀ (s : State) (k : Fin 24) (e : Episode) (pre post : Nat), 0 < pre + post →
    let origin : Origin := if e.monitor.val < 48 then .engine else if e.monitor.val < 96 then .brake else .device
    let early := s.snaps.ring.filter (fun f => decide (f.clock.toNat ≤ e.onsetClock.toNat))
    let c : Capture :=
      { phase := .capturing, episode := e.number, monitor := e.monitor, cls := e.cls, origin := origin, ride := e.ride
        onsetClock := e.onsetClock, preWanted := pre, postWanted := post, pre := early.drop (early.length - pre)
        post := [], timer := some 2000, endCause := none }
    let taken := fun i => ({ s with
      episodes := { s.episodes with
        table := s.episodes.table.set k ((s.episodes.table.get k).map (fun p => { p with slot := some i })) }
      snaps := { s.snaps with slots := s.snaps.slots.set i (some c), order := s.snaps.order ++ [i] } } : State)
    (s.snaps.slotFor e.cls = none → s.requestCapture k e pre post =
      { s with snaps := { s.snaps with misses := satInc s.snaps.misses } }) ∧
    (∀ i, s.snaps.slotFor e.cls = some i → 0 < post → s.requestCapture k e pre post = taken i) ∧
    (∀ i, s.snaps.slotFor e.cls = some i → post = 0 →
      s.requestCapture k e pre post = (taken i).endCapture i .complete)) ∧
  (∀ (p : Snapshots) (cls : MonitorClass),
    let free := (indices 8).filter (fun i => decide (p.slots.get i = none))
    let needed := if cls = .safety then 1 else 3
    (free.length < needed → p.slotFor cls = none) ∧
    (∀ i, needed ≤ free.length → p.slots.get i = none → (∀ j, j < i → p.slots.get j ≠ none) → p.slotFor cls = some i))

/-- R38, R39, R40, R42, R43, R44, R46: eviction chooses, among the HEALING episodes of a rank at or below the onset's, the
lowest rank and then the lowest number, and boundaries and lists take the open episodes in ascending number; the content
of CLOSE records, and the order in which a boundary, a heal, an eviction and an untracked onset offer their records. -/
def Obligations.EpisodeOrdersAndCloseRecords : Prop :=
  (∀ p : Episodes,
    (∀ c k, p.candidate c = some k → ∃ e, p.table.get k = some e ∧ e.state = .healing ∧ e.cls.rank ≤ c.rank ∧
      ∀ j f, p.table.get j = some f → f.state = .healing → f.cls.rank ≤ c.rank →
        e.cls.rank < f.cls.rank ∨ (e.cls.rank = f.cls.rank ∧ e.number.toNat ≤ f.number.toNat)) ∧
    (∀ c, p.candidate c = none →
      ∀ j f, p.table.get j = some f → f.state = .healing → f.cls.rank ≤ c.rank → False) ∧
    (∀ k, k ∈ p.byNumber ↔ (p.table.get k).isSome = true) ∧ p.byNumber.Nodup ∧
    p.byNumber.Pairwise (fun j k => ∀ e f, p.table.get j = some e → p.table.get k = some f →
      e.number.toNat ≤ f.number.toNat) ∧
    p.listed = p.byNumber.filterMap (fun k => p.table.get k)) ∧
  (∀ s : State,
    let origin : MonitorId → Origin := fun m => if m.val < 48 then .engine else if m.val < 96 then .brake else .device
    let closeOf : CloseCause → Episode → Record := fun cause e =>
      { body := .close cause false e.worst (s.rides.clock - e.onsetClock) e.lastFailClock e.occurrences e.suppressed
        cls := e.cls, ride := e.ride, monitor := some e.monitor, origin := origin e.monitor, episode := e.number }
    let untrackedOf : CloseCause → MonitorId → Settings → Record := fun cause m g =>
      { body := .close cause true 0 0 0 0 0, cls := g.cls, ride := s.rides.number, monitor := some m
        origin := origin m, episode := 0 }
    let onset : Onset → Bool → DWord → Record := fun o untracked number =>
      let parked := decide (s.rides.state = .parked)
      { body := .onset s.rides.clock o.value o.failLimit untracked parked o.time, cls := o.cls, ride := s.rides.number
        monitor := some o.monitor, origin := origin o.monitor, episode := number }
    let settingsOf := fun m => ((s.monitor m).adopted).getD (.internal .information 0 0)
    let boundary := fun cause => (s.episodes.byNumber.filterMap (fun k => s.episodes.table.get k)).map (closeOf cause) ++
      ((indices 102).filter (fun m =>
        decide ((s.monitor m).state = .failed) && (s.monitor m).untracked)).map (fun m => untrackedOf cause m (settingsOf m))
    let offered := fun (rs : List Record) => (rs.foldl (fun acc r => (acc.offer r none).1) s).archive
    (∀ k e cause, s.episodes.table.get k = some e → s.offersLeft 1 →
      (s.closeEpisode k cause).archive = offered [closeOf cause e] ∧
      (s.closeEpisode k cause).episodes.table = s.episodes.table.set k none) ∧
    (∀ cause, s.offersLeft 126 → (s.boundaryClose cause).archive = offered (boundary cause)) ∧
    (∀ m g, (s.monitor m).untracked = true → (s.monitor m).adopted = some g → s.episodes.entryOf m = none →
      s.healEpisode m = (s.offer (untrackedOf .healed m g) none).1) ∧
    (∀ o k e, s.offersLeft 3 → s.episodes.unused = [] → s.episodes.candidate o.cls = some k →
      s.episodes.table.get k = some e →
      (offered [closeOf .evicted e, onset o false s.episodes.counter]).queue <+: (s.takeOnset o).archive.queue) ∧
    (∀ o, s.episodes.unused = [] → s.episodes.candidate o.cls = none → s.offersLeft 1 →
      (s.takeOnset o).archive = offered [onset o true 0]) ∧
    (s.quiet → s.offersLeft (127 + s.snaps.order.length) →
      (∀ slip, s.serves .engine slip .rideOpen → s.rides.state = .parked →
        ∃ t, exec .rideOpen s = .next t ∧ (offered (boundary .rideOpen)).queue <+: t.archive.queue) ∧
      (∀ slip, s.serves .engine slip .rideClose → s.rides.state = .riding →
        ∃ t, exec .rideClose s = .next t ∧ (offered (boundary .rideClose)).queue <+: t.archive.queue) ∧
      (∀ cut, s.startUp.part = .ready → s.archive.state = .running → s.archive.queue ≠ [] →
        ∃ t, exec (.restart cut) s = .next t ∧ (offered (boundary .restart)).queue <+: t.archive.queue)))

/-! ## Timers -/

/-- R55, R65, R77, R79, R174, R178: a tick is one millisecond for the ride clock and every timer; a capture timer's
expiry ends the capture TRUNCATED_TIMEOUT, and a silence timer's expiry counts, restarts the timer and gives a FAIL. The
model's choice: that all timers share the millisecond of the tick and an expiry is taken once its timer has no time left
(log 3), that an expiry command that comes earlier does nothing (log 2), and that the clock runs too while something holds
the device in reset (log 12). -/
def Obligations.TimersRun : Prop :=
  ∀ s : State, s.quiet →
    let ms := fun t : Option Nat => t.map (fun n => n - 1)
    (exec .rideClockTick s = .next ({ s with
      rides := { s.rides with
        clock := if s.rides.clock = 0xFFFFFFFF then s.rides.clock else s.rides.clock + 1
        silence := ⟨⟨ms s.rides.silence.engine.remaining, s.rides.silence.engine.expiries⟩,
          ⟨ms s.rides.silence.brake.remaining, s.rides.silence.brake.expiries⟩⟩ }
      snaps := { s.snaps with slots := s.snaps.slots.map (fun o => o.map (fun c => { c with timer := ms c.timer })) }
      supply := { s.supply with settle := s.supply.settle - 1 }
      startUp := { s.startUp with drain := ms s.startUp.drain } } : State).showStatus) ∧
    (∀ i c, s.snaps.slots.get i = some c → c.timer = some 0 → c.phase = .capturing → s.offersLeft 1 →
      ∃ t, exec (.captureTimerExpiry i) s = .next t ∧ t = (s.endCapture i .truncatedTimeout).showStatus ∧
        t.snaps.slots.get i = (if s.archive.accepts (c.record i) then
          some { c with phase := .filing, timer := none, endCause := some .truncatedTimeout } else none) ∧
        t.qual = s.qual ∧ t.rides = s.rides ∧ t.chains = s.chains ∧ t.exchange.cells = s.exchange.cells) ∧
    (∀ i, (∀ c, s.snaps.slots.get i = some c → c.timer ≠ some 0) → exec (.captureTimerExpiry i) s = .next s) ∧
    (∀ x l, (s.rides.silence.get x).remaining = some 0 → s.exchange.layout = some l → s.numbersLeft →
      let n := (s.rides.silence.get x).expiries
      let up := if n = 32767 then n else n + 1
      let limit := 10 * l.limit.get x
      let m : MonitorId := if x = .engine then 96 else 97
      exec (.silenceTimerExpiry x) s = .next (State.takeVerdict ({ s with rides := { s.rides with
        silence := s.rides.silence.set x ⟨if limit = 0 then none else some limit, up⟩ } } : State) m
          ⟨.fail, up.setWidth 16, none⟩).showStatus) ∧
    (∀ x, (s.rides.silence.get x).remaining ≠ some 0 → exec (.silenceTimerExpiry x) s = .next s)

/-! ## The filing queue and the array -/

/-- R143, R145, R146, R147, R148, R154, R155, R156, R157: which offers the queue accepts, what acceptance gives the record
and leaves as it was, what a drop does, and that an offer after the last sequence number stops a running archive first, one
FAIL for monitor 101 being put off to the end of the step, and is then dropped. -/
def Obligations.OffersAnswered : Prop :=
  ∀ (s : State) (r : Record) (w : Option (Side × Word)),
    let a := s.archive
    let common := (a.queue.filter (fun d => match d.record.body with
      | .summary .. | .marker .. => false
      | .onset .. | .close .. | .snapshot _ => true)).length
    let place := match r.body with
      | .summary .. | .marker .. => a.queue.length < 48
      | .onset .. | .close .. | .snapshot _ => a.queue.length < 48 ∧ common < 44
    let release := ∃ g, r.body = .marker .release g
    let good := a.state = .running ∧ place ∧ (release → a.pinGeneration.toNat < 0xFFFFFFFF)
    let safety := r.cls = .safety ∧ (r.body.kind = .onset ∨ r.body.kind = .snapshot)
    let size := r.body.length s.snaps.slots
    (s.offersLeft 1 → good → (s.offer r w).2 = true ∧ ∃ d,
      (s.offer r w).1.archive.queue = a.queue ++ [d] ∧ d.record = r ∧ d.waiting = w ∧ d.attempt = .first ∧
      d.sequence = BitVec.ofNat 32 a.sequenceCounter ∧
      (s.offer r w).1.archive.sequenceCounter = a.sequenceCounter + 1 ∧
      d.generation = (s.offer r w).1.archive.pinGeneration ∧
      (release → d.generation = a.pinGeneration + 1 ∧ (s.offer r w).1.archive.pinnedBytes = 0) ∧
      (¬release → d.generation = a.pinGeneration) ∧
      (¬release → ¬safety → (s.offer r w).1.archive.pinnedBytes = a.pinnedBytes) ∧
      (safety → a.pinnedBytes + size ≤ 24576 →
        (s.offer r w).1.archive.retentionOverflows = a.retentionOverflows) ∧
      (¬(safety ∧ 24576 < a.pinnedBytes + size) → (s.offer r w).1.ports = s.ports) ∧
      (safety → a.pinnedBytes + size ≤ 24576 → d.pinned = true ∧
        (s.offer r w).1.archive.pinnedBytes = a.pinnedBytes + size) ∧
      (safety → 24576 < a.pinnedBytes + size → d.pinned = false ∧
        (s.offer r w).1.archive.pinnedBytes = a.pinnedBytes ∧
        (s.offer r w).1.archive.retentionOverflows = satInc a.retentionOverflows ∧
        ∀ x, ((s.offer r w).1.ports.get x).isLatched .archiveAlert = true) ∧
      (¬safety → d.pinned = false ∧ (s.offer r w).1.archive.retentionOverflows = a.retentionOverflows)) ∧
    (s.offersLeft 1 ∨ a.state = .stopped → ¬good → s.offer r w = (({ s with
      archive := { a with recordsDropped := satInc a.recordsDropped } } : State).latchBoth .archiveAlert, false)) ∧
    (¬s.offersLeft 1 → a.state = .running →
      let stop := s.archiveStop false
      s.offer r w = (({ stop with archive := { stop.archive with
        recordsDropped := satInc stop.archive.recordsDropped } } : State).latchBoth .archiveAlert, false) ∧
      (s.offer r w).1.archive.state = .stopped ∧ (s.offer r w).1.archive.queue = [] ∧
      (s.offer r w).1.archive.storeFails = a.storeFails ++ [BitVec.ofNat 16 (a.count .worn)])

/-- R149, R151, R152, R153, R154, R160, R170: the grant of the oldest record writes its stop unit, its units and its
commit word at the head, or first enters the next segment when it does not fit; and its verify failures by attempt, a
failure in phase 1 leaving the commit word unwritten and one in phase 2 leaving it alone wrong; an exhausted segment
counter stops the archive with one FAIL for monitor 101, a fifth WORN mark with two. That all units stand in the array
from the grant on is log 4, that one grant does the entry and the record behind it log 17, that the operand `flips` says
which bits read back wrong, and so whether phase 1 or 2 failed, log 5, which grants make the read jobs yield log 18, that
a WORN mark's header and the entry behind it are under way together, and the header of a mark that stops the archive is
whole, log 26, and that an entry's units take their contents log 35: the model's choice. -/
def Obligations.RecordsWritten : Prop :=
  (∀ (s : State) (d : Descriptor) (rest : List Descriptor), s.quiet → s.archive.queue = d :: rest →
    let a := s.archive
    let bytes := d.bytes s.snaps.slots
    let length := d.length s.snaps.slots
    let unitsAt := fun h : Head =>
      let base := 4096 * h.segment.val + h.offset
      (if h.offset + bytes.length < 4096 then [(base + bytes.length, (0 : Unit64))] else []) ++
        unitsFrom base (bytes.length / 8) bytes
    let under := fun (b : Archive) (item : WorkItem) (marks : Nat) (e : Option Entry) (ws : List (Nat × Unit64)) =>
      ({ b with
        array := (performWrites b.array ws).1
        work := some ⟨item, marks, e, (performWrites b.array ws).2, false⟩ } : Archive)
    let entered := fun (b : Archive) (i : Fin 16) =>
      let c : Archive := { b with
        segments := b.segments.set i ⟨.live, BitVec.ofNat 32 b.segmentCounter⟩
        segmentCounter := b.segmentCounter + 1, head := some ⟨i, 32⟩, stopUnitMissing := false, entering := none }
      ({ c with preparation := match c.nextSegment with
        | some t => if (c.segments.get t).state = .live then some ⟨t, 32, []⟩ else none
        | none => none } : Archive)
    let before := fun (b : Archive) (i : Fin 16) => (⟨i, b.segmentCounter, b.head, b.segments.get i, false⟩ : Entry)
    let entry := fun (b : Archive) (i : Fin 16) =>
      [(4096 * i.val, packUnit (leBytes 4 0x7E31 ++ dwordBytes (BitVec.ofNat 32 b.segmentCounter))),
        (4096 * i.val + 32, (0 : Unit64))]
    (s.mayWrite = true → a.stopUnitMissing = false → a.preparation = none →
      let u := s.yieldJobs
      (∀ h, a.head = some h → h.offset + length ≤ 4096 → exec .recordWriteGrant s =
        .next ({ u with archive := under u.archive .record 0 none (unitsAt h) } : State).showStatus) ∧
      (a.head = none ∨ (∃ h, a.head = some h ∧ 4096 < h.offset + length) →
        (∀ i, a.segmentCounter < 2 ^ 32 → a.nextSegment = some i →
          let e := entered u.archive i
          (e.preparation.isSome = true ∨ 4096 < 32 + length → exec .recordWriteGrant s =
            .next ({ u with archive := under e .steps 0 (some (before a i)) (entry a i) } : State).showStatus) ∧
          (e.preparation = none → 32 + length ≤ 4096 → exec .recordWriteGrant s =
            .next ({ u with archive := under e .record 0 (some (before a i)) (entry a i ++ unitsAt ⟨i, 32⟩) } :
              State).showStatus)) ∧
        (2 ^ 32 ≤ a.segmentCounter → s.startUp.part ≠ .restarting → ∃ t, exec .recordWriteGrant s = .next t ∧
          (let stop := State.archiveStop ({ u with archive := { u.archive with work := none } } : State) false
           stop.finish = .next t ∧ stop.archive.storeFails = [BitVec.ofNat 16 (a.count .worn)]) ∧
          t.archive.state = .stopped ∧ t.archive.queue = [] ∧ t.archive.array = a.array))) ∧
    (∀ h w flips array, a.head = some h → a.work = some w → w.item = .record → w.suspended = false →
      failsToCompare flips = true → failedArray w flips a.array = some array →
      let again : Archive := { a with array := array, queue := { d with attempt := .retry } :: rest }
      (d.attempt = .first → exec (.verifyFailure flips) s =
        .next ({ s with archive := under again .record 0 none (unitsAt h) } : State).showStatus) ∧
      (d.attempt = .retry → a.state = .running → s.numbersLeft →
        let q := (a.segments.get h.segment).sequence
        let mark : Nat × Unit64 := (4096 * h.segment.val, packUnit (leBytes 4 0x7E94 ++ dwordBytes q))
        let b : Archive := { a with array := array, work := none }
        let lost := (b.recordsOf h.segment).filter (fun r =>
          r.pinned && decide (r.generation = a.pinGeneration) && decide (a.wipeSequence ≤ r.sequence))
        let c : Archive := { b with
          segments := a.segments.set h.segment ⟨.worn, q⟩, pinnedBytes := a.pinnedBytes - lengthsOnce lost }
        let present := c.liveRecords.filter (fun r => decide (a.wipeSequence ≤ r.sequence))
        let worn : Archive := { c with
          newestSummary := highestSequence (present.filter (fun r => decide (r.kind = .summary)))
          newestRelease := highestSequence (present.filter (fun r => r.isMarker array .release))
          newestWipe := highestSequence (present.filter (fun r => r.isMarker array .wipe)) }
        let left : State := { s with archive := { worn with queue := { d with attempt := .moved } :: rest } }
        let n := BitVec.ofNat 16 (worn.count .worn)
        let told := (left.latchBoth .archiveAlert).takeVerdict 101 ⟨.fail, n, none⟩
        (∀ i, worn.count .worn < 5 → a.segmentCounter < 2 ^ 32 → worn.nextSegment = some i →
          let y := told.yieldJobs
          exec (.verifyFailure flips) s = .next ({ y with
            archive := under (entered y.archive i) .steps 1 (some (before worn i)) (mark :: entry a i) } :
              State).showStatus) ∧
        (worn.count .worn < 5 → 2 ^ 32 ≤ a.segmentCounter → s.startUp.part ≠ .restarting →
          ∃ t, exec (.verifyFailure flips) s = .next t ∧
            (let y := told.yieldJobs
             let stop := State.archiveStop ({ y with archive := { y.archive with work := none } } : State) false
             ({ stop with archive := { stop.archive with
                array := (performWrites stop.archive.array [mark]).1 } } : State).finish = .next t ∧
              stop.archive.storeFails = [n]) ∧
            t.archive.state = .stopped ∧ t.archive.queue = [] ∧ t.noJobs ∧
            t.archive.segments = worn.segments ∧ t.archive.array = (performWrites array [mark]).1 ∧
            ∀ x, (t.ports.get x).isLatched .archiveAlert = true) ∧
        (5 ≤ worn.count .worn → s.startUp.part ≠ .restarting → ∃ t, exec (.verifyFailure flips) s = .next t ∧
          (let full : State := { s with archive := { worn with array := (performWrites array [mark]).1 } }
           let stop := (full.latchBoth .archiveAlert).archiveStop true
           stop.finish = .next t ∧ stop.archive.storeFails = [n, n]) ∧
          t.archive.state = .stopped ∧ t.archive.queue = [] ∧ t.noJobs ∧ t.archive.segments = worn.segments ∧
          t.archive.array = (performWrites array [mark]).1 ∧
          ∀ x, (t.ports.get x).isLatched .archiveAlert = true)) ∧
      (d.attempt = .moved → s.numbersLeft → s.startUp.part ≠ .restarting ∨ rest ≠ [] →
        let counted := if d.pinned = true ∧ d.generation = a.pinGeneration then length else 0
        let left : Archive := { a with
          array := array, work := none, queue := rest, pinnedBytes := a.pinnedBytes - counted
          recordsDropped := satInc a.recordsDropped }
        exec (.verifyFailure flips) s = .next (((State.latchBoth ({ s with archive := left } : State)
          .archiveAlert).takeVerdict 101 ⟨.fail, BitVec.ofNat 16 (a.count .worn), none⟩).tellFate d
            .givenUp).showStatus))) ∧
  (∀ (a : Archive) (i : Fin 16),
    let worn := fun j => (a.segments.get j).state = .worn
    (∀ h, a.head = some h → (a.nextSegment = some i ↔ ∃ n, n < 15 ∧ i = h.segment + 1 + Fin.ofNat 16 n ∧ ¬worn i ∧
      ∀ k, k < n → worn (h.segment + 1 + Fin.ofNat 16 k))) ∧
    (a.head = none → (a.nextSegment = some i ↔ ¬worn i ∧ ∀ j, j < i → worn j))) ∧
  (∀ (m : Memory) (w : Work) (flips : List Unit64),
    let units := w.writes.drop (w.marks + (if w.entry = none then 0 else 2))
    let wrong := fun k => flips.getD k 0
    (units = [] → failedArray w flips m = none) ∧
    (∀ body last, units = body ++ [last] → m.wf Config.arrayBytes = true → (units.map UnitWrite.address).Nodup →
      (∀ u ∈ units, u.address % 8 = 0 ∧ u.address < 65536 ∧ readUnit m u.address = u.new) →
      ((∃ k, k < body.length ∧ wrong k ≠ 0) → ∃ n, failedArray w flips m = some n ∧
        readUnit n last.address = last.old ∧
        (∀ k u, body[k]? = some u → readUnit n u.address = u.new ^^^ wrong k) ∧
        ∀ b, (∀ u ∈ units, b < u.address ∨ u.address + 8 ≤ b) → n.read b = m.read b) ∧
      ((∀ k, k < body.length → wrong k = 0) → wrong body.length ≠ 0 → ∃ n, failedArray w flips m = some n ∧
        readUnit n last.address = last.new ^^^ wrong body.length ∧
        ∀ b, b < last.address ∨ last.address + 8 ≤ b → n.read b = m.read b) ∧
      ((∀ k, k ≤ body.length → wrong k = 0) → failedArray w flips m = none)))

/-- R140, R141, R142, R149, R193: the bytes of a queued record, header, body and commit word; its units, once whole, read
back as the committed record they are, behind which stands a stop unit, and no other byte of the array has changed; when a
record at a position is committed, and what a walk of a segment finds. -/
def Obligations.RecordsReadBack : Prop :=
  let two := fun w : Word => [w.setWidth 8, (w >>> 8).setWidth 8]
  let four := fun w : DWord => [w.setWidth 8, (w >>> 8).setWidth 8, (w >>> 16).setWidth 8, (w >>> 24).setWidth 8]
  let flags := fun (x y z : Bool) => (if x then 1 else 0) ||| (if y then 2 else 0) ||| (if z then 4 else (0 : Byte))
  let frame := fun f : Frame => four f.clock ++ [if f.side = .engine then 1 else 2, BitVec.ofNat 8 f.items.length] ++
    f.items.flatMap (fun i => i.1.setWidth 8 :: two i.2) ++ List.replicate (18 - 3 * f.items.length) 0
  let body := fun (slots : Table 8 (Option Capture)) (b : Body) => match b with
    | .onset clock value limit untracked parked time => four clock ++ two value ++
        [BitVec.ofNat 8 limit, flags untracked parked time.isSome] ++ four (time.getD 0) ++ [0, 0, 0, 0]
    | .close cause untracked worst duration lastFail occurrences suppressed =>
        [BitVec.ofNat 8 cause.code, flags untracked false false] ++ two worst ++ four duration ++ four lastFail ++
          two occurrences ++ two suppressed
    | .snapshot i => match slots.get i with
      | none => List.replicate 8 0
      | some c => [BitVec.ofNat 8 c.pre.length, BitVec.ofNat 8 c.post.length, BitVec.ofNat 8 c.endCode, 0, 0, 0, 0, 0] ++
          (c.pre ++ c.post).flatMap frame
    | .summary ride reconstructed wipe restart odometer duration entries => two ride ++
        [flags reconstructed wipe restart, 0] ++ four odometer ++ four duration ++ [0, 0, 0, 0] ++ entries.flatMap four
    | .marker kind generation => [BitVec.ofNat 8 kind.code, 0, 0, 0] ++ four generation
  let sized := fun (slots : Table 8 (Option Capture)) (b : Body) => match b with
    | .onset .. | .close .. | .marker .. => True
    | .snapshot i => ∀ c, slots.get i = some c →
        c.pre.length + c.post.length ≤ 11 ∧ ∀ f ∈ c.pre ++ c.post, f.items.length ≤ 6
    | .summary _ _ _ _ _ _ entries => entries.length = 102
  (∀ (d : Descriptor) (slots : Table 8 (Option Capture)),
    let r := d.record
    let monitor : Byte := match r.monitor with
      | some m => BitVec.ofNat 8 m.val
      | none => 0xFF
    let side : Byte := match r.origin with
      | .engine => 1
      | .brake => 2
      | .device => 3
    let size := d.length slots
    d.bytes slots = [BitVec.ofNat 8 r.body.kind.code, flags d.pinned false false] ++ two (BitVec.ofNat 16 size) ++
      four d.generation ++ four d.sequence ++ four r.episode ++ two r.ride ++
      [monitor, BitVec.ofNat 8 r.cls.rank, side, 0, 0, 0] ++ body slots r.body ++
      [0x5A, 0xC3, 0x3C, 0xA5, 0x96, 0x69] ++ two (d.sequence.setWidth 16) ∧
    (sized slots r.body → (d.bytes slots).length = size ∧ size % 8 = 0 ∧ 40 ≤ size ∧ size ≤ 512 ∧
      ∀ (m : Memory) (i : Fin 16) (p : Nat), m.wf Config.arrayBytes = true → 32 ≤ p → p + size ≤ 4096 →
        let base := 4096 * i.val + p
        let n := (performWrites m (recordWrites i p (d.bytes slots))).1
        recordAt n i p = some
          { segment := i, offset := p, kind := r.body.kind, length := size, pinned := d.pinned, carried := false
            generation := d.generation, sequence := d.sequence, episode := r.episode, ride := r.ride
            monitor := monitor.toNat, cls := r.cls.rank } ∧
        n.readBytes base size = d.bytes slots ∧
        (p + size < 4096 → n.readBytes (base + size) 8 = List.replicate 8 0) ∧
        ∀ b, b < base ∨ base + size + (if p + size < 4096 then 8 else 0) ≤ b → n.read b = m.read b)) ∧
  (∀ (m : Memory) (i : Fin 16) (p : Nat),
    let at' := fun k => m.read (4096 * i.val + p + k)
    let lo := fun k => (at' k).toNat + 256 * (at' (k + 1)).toNat
    let number := fun k => lo k + 65536 * lo (k + 2)
    let kind := (at' 0).toNat
    let size := lo 2
    let committed := ((kind = 1 ∨ kind = 2) ∧ size = 48 ∨
        kind = 3 ∧ 40 ≤ size ∧ size ≤ 304 ∧ (size - 40) % 24 = 0 ∨ kind = 4 ∧ size = 456 ∨ kind = 5 ∧ size = 40) ∧
      p + size ≤ 4096 ∧
      m.readBytes (4096 * i.val + p + size - 8) 8 = [0x5A, 0xC3, 0x3C, 0xA5, 0x96, 0x69, at' 8, at' 9]
    (committed → ∃ r, recordAt m i p = some r) ∧
    (∀ r, recordAt m i p = some r → committed ∧ r.segment = i ∧ r.offset = p ∧ r.kind.code = kind ∧ r.length = size ∧
      r.pinned = (at' 1).getLsbD 0 ∧ r.carried = (at' 1).getLsbD 1 ∧ r.generation.toNat = number 4 ∧
      r.sequence.toNat = number 8 ∧ r.episode.toNat = number 12 ∧ r.ride.toNat = lo 16 ∧
      r.monitor = (at' 18).toNat ∧ r.cls = (at' 19).toNat)) ∧
  (∀ (m : Memory) (i : Fin 16),
    let w := walkSegment m i
    let ends := fun n => 32 + ((w.records.take n).map Stored.length).sum
    (∀ n r, w.records[n]? = some r → r.offset = ends n ∧ recordAt m i r.offset = some r) ∧
    w.endOffset = ends w.records.length ∧
    (w.ended = .segmentEnd → w.endOffset = 4096) ∧
    (w.ended ≠ .segmentEnd → w.endOffset < 4096 ∧ recordAt m i w.endOffset = none ∧
      (w.ended = .stopUnit ↔ m.readBytes (4096 * i.val + w.endOffset) 8 = List.replicate 8 0)))

/-- R129, R150, R158, R60, R75, R134, R137: the commit of the oldest record, whatever its kind and the part state, moves
the head past it and takes it off the queue; a summary or a marker becomes the newest of its kind, and a WIPE marker sets
the wipe sequence, frees the pinned bytes of what becomes absent and makes the choice again. The record's fate is told:
its slot becomes FREE, or the slip that waits for it is answered once the fates of all its records are known. (How a
record's fates are kept until then is log 28, the model's choice.) -/
def Obligations.RecordsCommitted : Prop :=
  (∀ (s : State) (d : Descriptor) (rest : List Descriptor) (h : Head) (w : Work), s.quiet →
    s.archive.queue = d :: rest → s.archive.head = some h → s.archive.work = some w → w.item = .record →
    w.suspended = false → s.startUp.part ≠ .restarting ∨ rest ≠ [] →
    let a := s.archive
    let moved : Archive := { a with
      queue := rest, work := none, head := some ⟨h.segment, h.offset + d.length s.snaps.slots⟩ }
    let commits := fun b : Archive =>
      exec .recordCommit s = .next (State.tellFate ({ s with archive := b } : State) d .committed).showStatus
    (d.record.body.kind = .onset ∨ d.record.body.kind = .close ∨ d.record.body.kind = .snapshot → commits moved) ∧
    (d.record.body.kind = .summary → commits { moved with newestSummary := some d.sequence }) ∧
    (∀ g, d.record.body = .marker .release g → commits { moved with newestRelease := some d.sequence }) ∧
    (∀ g, d.record.body = .marker .wipe g →
      let lost := moved.liveRecords.filter (fun r => r.pinned && decide (r.generation = a.pinGeneration) &&
        decide (a.wipeSequence ≤ r.sequence) && decide (r.sequence < d.sequence))
      let present := moved.liveRecords.filter (fun r => decide (d.sequence ≤ r.sequence))
      commits { moved with
        wipeSequence := d.sequence, pinnedBytes := a.pinnedBytes - lengthsOnce lost
        newestSummary := highestSequence (present.filter (fun r => decide (r.kind = .summary)))
        newestRelease := highestSequence (present.filter (fun r => r.isMarker a.array .release))
        newestWipe := highestSequence (present.filter (fun r => r.isMarker a.array .wipe)) })) ∧
  (∀ (u : State) (d : Descriptor) (f : Fate),
    (∀ i, d.record.body = .snapshot i →
      (u.snaps.slots.get i = none → u.tellFate d f = u) ∧
      (∀ c, u.snaps.slots.get i = some c → u.tellFate d f = { u with
        snaps := { u.snaps with slots := u.snaps.slots.set i none, order := u.snaps.order.filter (fun j => j != i) }
        episodes := { u.episodes with table := u.episodes.table.map (fun e => e.map (fun v =>
          if v.number = c.episode then { v with slot := none } else v)) } })) ∧
    (d.record.body.kind ≠ .snapshot → d.waiting = none → u.tellFate d f = u) ∧
    (∀ x slip w before after, d.record.body.kind ≠ .snapshot → d.waiting = some (x, slip) →
      u.intake.waiting = before ++ w :: after → w.side = x → w.slip = slip →
      (∀ v ∈ before ++ after, v.side ≠ x ∨ v.slip ≠ slip) →
      let lost := fun (g : Fate) (weight : Word) => if g = .committed then 0 else weight
      let answered := fun (detail : Word) (wipe : Bool) => State.answer ({ u with intake := { u.intake with
        waiting := before ++ after, wipeWaiting := wipe } } : State) x slip .ok detail 0
      (w.kind = .rideClose → d.record.body.kind = .summary →
        u.tellFate d f = answered (lost f 1) u.intake.wipeWaiting) ∧
      (w.kind = .release → d.record.body.kind = .marker →
        u.tellFate d f = answered (lost f 1) u.intake.wipeWaiting) ∧
      (w.kind = .wipe → d.record.body.kind = .marker → w.summary = none →
        u.tellFate d f = { u with intake := { u.intake with
          waiting := before ++ { w with marker := some f } :: after } }) ∧
      (∀ g, w.kind = .wipe → d.record.body.kind = .marker → w.summary = some g →
        u.tellFate d f = answered (lost f 1 + lost g 2) false) ∧
      (∀ g, w.kind = .wipe → d.record.body.kind = .summary → w.marker = some g →
        u.tellFate d f = answered (lost g 1 + lost f 2) false)))

/-- R154, R148, R153, R156, R173: what an archive stop does at its moment, and at the end of the step: every queued record
is given up, oldest first, counted as a drop and no longer as pinned, and its slot or its waiting slip learns it (what that
does is stated with commits); ARCHIVE_ALERT latches; the preparation ends, and the read jobs end ABORTED, each with its
control block and its answer (what the end of a job does is stated with read jobs). The FAILs to monitor 101 are given once
the step has ended (log 22), and a write under way writes no further unit. How far that write had got is a free value
(log 34, the model's choice). From then on the write path has no grant: its commands do nothing (log 2, the model's
choice). -/
def Obligations.ArchiveStops : Prop :=
  (∀ (s : State) (byWorn : Bool),
    let a := s.archive
    let t := s.archiveStop byWorn
    let n := BitVec.ofNat 16 (a.count .worn)
    t.archive.state = .stopped ∧ t.archive.queue = [] ∧ t.archive.preparation = none ∧ t.noJobs ∧
    t.archive.recordsDropped.toNat = min (a.recordsDropped.toNat + a.queue.length) (max a.recordsDropped.toNat 65535) ∧
    (let counted := fun d : Descriptor => d.pinned && decide (d.generation = a.pinGeneration)
     let gaveUp := fun (u : State) (d : Descriptor) => State.tellFate (State.latchBoth ({ u with archive := { u.archive with
       pinnedBytes := u.archive.pinnedBytes - (if counted d then d.length u.snaps.slots else 0)
       recordsDropped := satInc u.archive.recordsDropped } } : State) .archiveAlert) d .givenUp
     let aborted := fun (u : State) (x : Side) => match a.jobs.get x with
       | none => u
       | some j => u.endJob x j .aborted j.sequence j.offset
     let emptied : State := { s with archive := { a with
       state := .stopped, queue := [], preparation := none
       storeFails := a.storeFails ++ (if byWorn then [n, n] else [n]) } }
     t = aborted (aborted ((a.queue.foldl gaveUp emptied).latchBoth .archiveAlert) .engine) .brake ∧
     ((a.queue.filterMap (fun d => match d.record.body with
         | .snapshot i => some i
         | .onset .. | .close .. | .summary .. | .marker .. => none)).Nodup →
       t.archive.pinnedBytes =
         a.pinnedBytes - ((a.queue.filter counted).map (fun d => d.length s.snaps.slots)).sum)) ∧
    (∀ x, (t.ports.get x).isLatched .archiveAlert = true) ∧
    (∀ x j, a.jobs.get x = some j → j.slip ∈ (t.chainsOf x).ret) ∧
    (∀ d ∈ a.queue, ∀ i, d.record.body = .snapshot i → t.snaps.slots.get i = none) ∧
    t.archive.array = a.array ∧ t.archive.segments = a.segments ∧ t.archive.head = a.head ∧
    t.archive.pinGeneration = a.pinGeneration ∧
    t.archive.storeFails = a.storeFails ++ (if byWorn then [n, n] else [n])) ∧
  (∀ (s : State) (v : Word) (rest : List Word), s.archive.storeFails = v :: rest →
    let a := s.archive
    let given := fun u : State => s.finish =
      .next (((v :: rest).foldl (fun w n => w.takeVerdict 101 ⟨.fail, n, none⟩) u).showStatus)
    (a.work = none → given { s with archive := { a with storeFails := [] } }) ∧
    (∀ w, a.work = some w → w.suspended = true →
      given { s with archive := { a with storeFails := [], work := none }, draws := s.draws + 1 }) ∧
    (∀ w, a.work = some w → w.suspended = false →
      given { s with
        archive := { a.cutEntry (Config.stopUnits s.draws) with
          storeFails := [], work := none
          array := cutWrites (Config.stopMix s.draws) (Config.stopUnits s.draws) w.writes a.array }
        draws := s.draws + 1 })) ∧
  (∀ s : State, s.archive.state = .stopped → exec .recordWriteGrant s = .next s ∧ exec .carryWrite s = .next s ∧
    exec .vacate s = .next s ∧ exec .scanStopUnitWrite s = .next s)

/-- R142, R161, R162, R163, R164, R170, R181, R182, R193: which records a preparation carries, in walk order; a carry
writes the copy of its record at the head, the original's bytes with the carried flag set, which read back as the same
record carried; its commit moves the walk and the head past it, its first verify failure writes it again and its second
gives it up; the target is then vacated, the head advancing again when the oldest record does not fit; and the stop unit
that a scan found missing is written. The model's choice: that a copy stands whole in the array from its grant on (log 4),
what `flips` says (log 5), that the walk decides and moves at the carry's grant (log 16), that VACATE is the end of a
vacating (log 33), which grants make the read jobs yield (log 18), that an advance which the exhausted segment counter
prevents counts no carry stall (log 21), and that an entry's units take their contents (log 35). -/
def Obligations.PreparationsRun : Prop :=
  (∀ (s : State) (h : Head), s.quiet → s.archive.head = some h →
    let a := s.archive
    let u := s.yieldJobs
    let base := 4096 * h.segment.val + h.offset
    let copy := fun (r : Stored) (m : Memory) => recordWrites h.segment h.offset (r.copyBytes m)
    let under := fun (b : Archive) (item : WorkItem) (e : Option Entry) (ws : List (Nat × Unit64)) => ({ b with
      array := (performWrites b.array ws).1, work := some ⟨item, 0, e, (performWrites b.array ws).2, false⟩ } : Archive)
    (s.mayWrite = true → a.stopUnitMissing = true → exec .scanStopUnitWrite s =
      .next ({ u with archive := under { u.archive with stopUnitMissing := false } .steps none [(base, 0)] } :
        State).showStatus) ∧
    (∀ p,
      let stored := (a.walk p.target).records.filter (fun r => !a.disregarded.contains (r.segment, r.offset))
      let carried := fun r : Stored => p.position ≤ r.offset ∧ a.wipeSequence.toNat ≤ r.sequence.toNat ∧
        ((r.pinned = true ∧ r.generation = a.pinGeneration) ∨
          (r.kind = .summary ∧ a.newestSummary = some r.sequence) ∨
          (r.isMarker a.array .release = true ∧ a.newestRelease = some r.sequence) ∨
          (r.isMarker a.array .wipe = true ∧ a.newestWipe = some r.sequence))
      (∀ r, a.nextCarry p = some r ↔
        carried r ∧ ∃ before after, stored = before ++ r :: after ∧ ∀ q ∈ before, ¬carried q) ∧
      (a.nextCarry p = none ↔ ∀ q ∈ stored, ¬carried q)) ∧
    (∀ p, s.mayWrite = true → a.stopUnitMissing = false → a.preparation = some p →
      (∀ r, a.nextCarry p = some r →
        let found : Archive := { u.archive with preparation := some { p with position := r.offset } }
        exec .carryWrite s = .next ({ u with archive := under found (.carry r.offset false) none (copy r a.array) } :
          State).showStatus) ∧
      (a.nextCarry p = none →
        let q := (a.segments.get p.target).sequence
        let lost := (a.recordsOf p.target).filter (fun r => p.givenUp.contains r.offset && (r.pinned &&
          decide (r.generation = a.pinGeneration) && decide (a.wipeSequence ≤ r.sequence)))
        let b : Archive := { u.archive with
          segments := a.segments.set p.target ⟨.vacant, q⟩, pinnedBytes := a.pinnedBytes - lengthsOnce lost
          disregarded := a.disregarded.filter (fun d => d.1 != p.target), preparation := none }
        let present := b.liveRecords.filter (fun r => decide (a.wipeSequence ≤ r.sequence))
        let chosen : Archive := if p.givenUp = [] then b else { b with
          newestSummary := highestSequence (present.filter (fun r => decide (r.kind = .summary)))
          newestRelease := highestSequence (present.filter (fun r => r.isMarker a.array .release))
          newestWipe := highestSequence (present.filter (fun r => r.isMarker a.array .wipe)) }
        let vacated : Archive := { chosen with
          work := none
          array := (performWrites a.array
            [(4096 * p.target.val, packUnit (leBytes 4 0x7E52 ++ dwordBytes q))]).1 }
        ((a.queue = [] ∧ s.startUp.part ≠ .restarting) ∨
            (∃ d rest, a.queue = d :: rest ∧ h.offset + d.length s.snaps.slots ≤ 4096) →
          exec .vacate s = .next ({ u with archive := vacated } : State).showStatus) ∧
        (∀ d rest, a.queue = d :: rest → 4096 < h.offset + d.length s.snaps.slots →
          (∀ i, a.segmentCounter < 2 ^ 32 → vacated.nextSegment = some i →
            let c : Archive := { vacated with
              segments := vacated.segments.set i ⟨.live, BitVec.ofNat 32 a.segmentCounter⟩
              segmentCounter := a.segmentCounter + 1, head := some ⟨i, 32⟩, stopUnitMissing := false
              entering := none, carryStalls := satInc a.carryStalls }
            let begun : Option Preparation := match c.nextSegment with
              | some t => if (c.segments.get t).state = .live then some ⟨t, 32, []⟩ else none
              | none => none
            let header := packUnit (leBytes 4 0x7E31 ++ dwordBytes (BitVec.ofNat 32 a.segmentCounter))
            let entry := [(4096 * i.val, header), (4096 * i.val + 32, (0 : Unit64))]
            let before : Entry := ⟨i, a.segmentCounter, some h, vacated.segments.get i, false⟩
            let e : Archive := { c with preparation := begun }
            exec .vacate s = .next ({ u with archive := under e .steps (some before) entry } : State).showStatus) ∧
          (2 ^ 32 ≤ a.segmentCounter → s.startUp.part ≠ .restarting → ∃ t, exec .vacate s = .next t ∧
            (let stop := State.archiveStop ({ u with archive := vacated } : State) false
             stop.finish = .next t ∧ stop.archive.storeFails = [BitVec.ofNat 16 (vacated.count .worn)]) ∧
            t.archive.state = .stopped ∧ t.archive.queue = [] ∧ t.archive.segments = vacated.segments ∧
            t.archive.array = vacated.array ∧ t.archive.carryStalls = a.carryStalls)))) ∧
    (∀ w p r source again, a.work = some w → w.item = .carry source again → w.suspended = false →
      a.preparation = some p → recordAt a.array p.target source = some r →
      exec .carryCommit s = .next ({ s with archive := { a with
        preparation := some { p with position := r.offset + r.length }, work := none
        head := some ⟨h.segment, h.offset + r.length⟩ } } : State).showStatus ∧
      (∀ flips array, failsToCompare flips = true → failedArray w flips a.array = some array →
        let found : Archive := { a with array := array, preparation := some { p with position := r.offset } }
        let left : Archive := { a with
          array := array, preparation := some ⟨p.target, r.offset + r.length, p.givenUp ++ [r.offset]⟩, work := none
          recordsDropped := satInc a.recordsDropped }
        (again = false → exec (.carryVerifyFailure flips) s =
          .next ({ s with archive := under found (.carry r.offset true) none (copy r array) } : State).showStatus) ∧
        (again = true → s.numbersLeft → exec (.carryVerifyFailure flips) s =
          .next ((State.latchBoth ({ s with archive := left } : State) .archiveAlert).takeVerdict 101
            ⟨.fail, BitVec.ofNat 16 (a.count .worn), none⟩).showStatus)))) ∧
  (∀ (m : Memory) (i : Fin 16) (p : Nat) (r : Stored), recordAt m i p = some r →
    let from' := 4096 * i.val + p
    let copy := r.copyBytes m
    copy.length = r.length ∧
    (∀ k, k < r.length → copy.getD k 0 = if k = 1 then m.read (from' + 1) ||| 2 else m.read (from' + k)) ∧
    ∀ (n : Memory) (j : Fin 16) (q : Nat), n.wf Config.arrayBytes = true → 32 ≤ q → q + r.length ≤ 4096 →
      let base := 4096 * j.val + q
      let w := (performWrites n (recordWrites j q copy)).1
      recordAt w j q = some { r with segment := j, offset := q, carried := true } ∧
      w.readBytes base r.length = copy ∧
      (q + r.length < 4096 → w.readBytes (base + r.length) 8 = List.replicate 8 0) ∧
      ∀ b, b < base ∨ base + r.length + (if q + r.length < 4096 then 8 else 0) ≤ b → w.read b = n.read b)

/-- R166, R167, R169, R171, R172, R191: whom the arbiter grants the array, and one step of a read job. The write path may
go while the archive runs, the supply is NORMAL and no record or carry is being written or suspended; it takes the stop
unit after a scan, then the preparation's carry or vacating, then the oldest record. A read job steps while the write path
has nothing pending, or under the lockout, the side that the read turn names when both have a job: a record that passes
and fits is copied whole, one that does not pass is skipped, one that does not fit ends the job PARTIAL, and the end of a
walk leads to the next LIVE segment or ends the job OK. A job that ends writes its control block a last time, with
part-done clear. The model's choice: a command out of turn does nothing (log 2), and the next cursor of a job whose last
LIVE segment is not the head segment names the position's segment (log 38). -/
def Obligations.ReadJobsStep : Prop :=
  (∀ s : State,
    let a := s.archive
    let busy := ∃ w, a.work = some w ∧ (w.suspended = true ∨ w.item ≠ .steps)
    let idle := fun c : Instr => exec c s = .next s
    (s.mayWrite = true ↔ s.startUp.phase = .running ∧ a.state = .running ∧ s.supply.state = .normal ∧ ¬busy) ∧
    (s.locked = true ↔ s.supply.state ≠ .normal) ∧
    (a.writePending = true ↔
      a.state = .running ∧ (busy ∨ a.stopUnitMissing = true ∨ a.preparation ≠ none ∨ a.queue ≠ [])) ∧
    (s.mayWrite = false → idle .scanStopUnitWrite ∧ idle .carryWrite ∧ idle .vacate ∧ idle .recordWriteGrant) ∧
    (a.stopUnitMissing = true → idle .carryWrite ∧ idle .vacate ∧ idle .recordWriteGrant) ∧
    (a.stopUnitMissing = false → idle .scanStopUnitWrite) ∧
    (a.preparation = none → idle .carryWrite ∧ idle .vacate) ∧
    (∀ p, a.preparation = some p → idle .recordWriteGrant ∧ (a.nextCarry p = none → idle .carryWrite) ∧
      (a.nextCarry p ≠ none → idle .vacate)) ∧
    (a.queue = [] → idle .recordWriteGrant) ∧
    (s.startUp.phase ≠ .running ∨ s.noJobs ∨ (s.supply.state = .normal ∧ a.writePending = true) →
      idle .readJobStep)) ∧
  (∀ (s : State) (x : Side) (j : Job) (i : Fin 16), s.quiet → s.startUp.phase = .running →
    s.locked = true ∨ s.archive.writePending = false → s.archive.jobs.get x = some j →
    s.archive.jobs.get x.other = none ∨ s.archive.readTurn = x → s.archive.liveSegment j.sequence = some i →
    let a := s.archive
    let work := if a.busy then a.work else none
    let turned : State := { s with archive := { a with readTurn := x.other, work := work } }
    let found := (a.recordsOf i).find? (fun r => decide (j.offset ≤ r.offset))
    let goesOn := fun (k : Job) (e : Exchange) => ({ s with
      exchange := e
      archive := { a with readTurn := x.other, work := work, jobs := a.jobs.set x (some k) } } : State).showStatus
    (∀ r, found = some r →
      let passes := a.wipeSequence.toNat ≤ r.sequence.toNat ∧ j.kinds.getLsbD (r.kind.code - 1) = true ∧
        j.classes.getLsbD r.cls = true ∧ j.lowestRide.toNat ≤ r.ride.toNat
      (¬passes → exec .readJobStep s = .next (goesOn { j with offset := r.offset + r.length } s.exchange)) ∧
      (passes → j.bytesWritten + r.length ≤ j.windowLength → exec .readJobStep s = .next (goesOn
        { j with offset := r.offset + r.length, bytesWritten := j.bytesWritten + r.length,
                 recordsCopied := j.recordsCopied + 1 }
        (s.exchange.writeBytes (j.windowOffset + j.bytesWritten)
          (a.array.readBytes (4096 * r.segment.val + r.offset) r.length)))) ∧
      (passes → j.windowLength < j.bytesWritten + r.length → exec .readJobStep s =
        .next (turned.endJob x j .partially j.sequence r.offset).showStatus)) ∧
    (found = none →
      (∀ q, a.nextLive j.sequence.toNat = some q → exec .readJobStep s =
        .next (goesOn { j with sequence := q, offset := 32 } s.exchange)) ∧
      (a.nextLive j.sequence.toNat = none → (a.walk i).endOffset < 4096 → exec .readJobStep s =
        .next (turned.endJob x j .ok j.sequence (a.walk i).endOffset).showStatus) ∧
      (a.nextLive j.sequence.toNat = none → 4096 ≤ (a.walk i).endOffset → a.segmentCounter < 2 ^ 32 →
        exec .readJobStep s =
          .next (turned.endJob x j .ok (BitVec.ofNat 32 a.segmentCounter) 32).showStatus))) ∧
  (∀ (u : State) (x : Side) (j : Job) (code : ResultCode) (q : DWord) (off : Nat),
    let t := u.endJob x j code q off
    t.archive.jobs.get x = none ∧ (t.chainsOf x).ret = (u.chainsOf x).ret ++ [j.slip] ∧
    (let block := dwordBytes q ++ leBytes 2 off ++ leBytes 2 j.bytesWritten ++ leBytes 2 j.recordsCopied ++
       leBytes 2 (if j.gap then 1 else 0)
     t.exchange = (State.writeAnswer ({ u with exchange := u.exchange.writeBytes (j.slip.toNat + 32) block } : State) j.slip
       code (BitVec.ofNat 16 j.recordsCopied) (BitVec.ofNat 16 j.bytesWritten)).exchange) ∧
    (u.MemoryInv → slipFits j.slip →
      t.exchange.readDword (j.slip.toNat + 32) = q ∧
      t.exchange.readWord (j.slip.toNat + 36) = BitVec.ofNat 16 off ∧
      t.exchange.readWord (j.slip.toNat + 38) = BitVec.ofNat 16 j.bytesWritten ∧
      t.exchange.readWord (j.slip.toNat + 40) = BitVec.ofNat 16 j.recordsCopied ∧
      t.exchange.readWord (j.slip.toNat + 42) = (if j.gap then 1 else 0)))

/-- R168, R170, R171, R172: each side's running job yields to a grant of the write path by writing its control block into
the body of its slip with part-done set, the engine side's first; and a job whose segment is no longer LIVE moves to the
oldest LIVE segment above it with gap set, or ends OK. A cut-off that falls into a vacating finds the jobs to have yielded
to it. (A position of sequence 0, a segment entered between a job's creation and its first step, and the next cursor and gap
of a job that ends so behind a WORN mark, are log 19; that the move takes a step of its own is log 29; that a vacating is
under way before its command is log 33: the model's choice.) -/
def Obligations.JobsYieldAndMove : Prop :=
  (∀ (s : State) (x : Side),
    s.yieldJobs = (s.yieldJob .engine).yieldJob .brake ∧
    (s.archive.jobs.get x = none → s.yieldJob x = s) ∧
    (∀ j, s.archive.jobs.get x = some j →
      let block := dwordBytes j.sequence ++ leBytes 2 j.offset ++ leBytes 2 j.bytesWritten ++
        leBytes 2 j.recordsCopied ++ leBytes 2 (if j.gap then 3 else 2)
      let y := s.exchange.writeBytes (j.slip.toNat + 32) block
      s.yieldJob x = { s with
        exchange := y
        archive := { s.archive with jobs := s.archive.jobs.set x (some { j with partDone := true }) } } ∧
      (s.MemoryInv → slipFits j.slip →
        y.readDword (j.slip.toNat + 32) = j.sequence ∧
        y.readWord (j.slip.toNat + 36) = BitVec.ofNat 16 j.offset ∧
        y.readWord (j.slip.toNat + 38) = BitVec.ofNat 16 j.bytesWritten ∧
        y.readWord (j.slip.toNat + 40) = BitVec.ofNat 16 j.recordsCopied ∧
        y.readWord (j.slip.toNat + 42) = (if j.gap then 3 else 2) ∧
        ∀ b, ¬(j.slip.toNat + 32 ≤ b ∧ b < j.slip.toNat + 44) → y.readByte b = s.exchange.readByte b))) ∧
  (∀ (s : State) (cut : Cut),
    let reached := ∃ p, s.archive.preparation = some p ∧ s.mayWrite = true ∧ s.archive.stopUnitMissing = false ∧
      s.archive.nextCarry p = none ∧
      ∀ w, s.archive.work = some w → w.suspended = false → w.writes.length ≤ cut.done
    (reached → s.yieldVacating cut = s.yieldJobs) ∧ (¬reached → s.yieldVacating cut = s)) ∧
  (∀ (s : State) (x : Side) (j : Job), s.quiet → s.startUp.phase = .running →
    s.locked = true ∨ s.archive.writePending = false → s.archive.jobs.get x = some j →
    s.archive.jobs.get x.other = none ∨ s.archive.readTurn = x → s.archive.liveSegment j.sequence = none →
    let a := s.archive
    let work := if a.busy then a.work else none
    (∀ q, a.nextLive j.sequence.toNat = some q → exec .readJobStep s = .next ({ s with archive := { a with
      readTurn := x.other, work := work
      jobs := a.jobs.set x (some { j with
        sequence := q, offset := 32, gap := j.gap || decide (j.sequence ≠ 0) }) } } : State).showStatus) ∧
    (a.nextLive j.sequence.toNat = none → a.segmentCounter < 2 ^ 32 → exec .readJobStep s =
      .next (State.endJob ({ s with archive := { a with readTurn := x.other, work := work } } : State) x j .ok
        (BitVec.ofNat 32 a.segmentCounter) 32).showStatus)) ∧
  (∀ (a : Archive) (n : Nat) (q : DWord),
    let live := fun i => (a.segments.get i).state = .live
    let sq := fun i => (a.segments.get i).sequence
    (a.nextLive n = some q → (∃ i, live i ∧ sq i = q) ∧ n < q.toNat ∧
      ∀ i, live i → n < (sq i).toNat → q.toNat ≤ (sq i).toNat) ∧
    (a.nextLive n = none → ∀ i, live i → (sq i).toNat ≤ n) ∧
    (∀ i, a.liveSegment q = some i → live i ∧ sq i = q) ∧
    (a.liveSegment q = none → ∀ i, live i → sq i ≠ q))

/-! ## Supply, resets and start-up -/

/-- R160, R170, R174, R175, R176, R177, R178: LOW entry, rise and end of SETTLING, with the dip count, the verdicts to
monitor 100, the cut-off of the writes under way, an entry, a record, a carry or a vacating header, and their repetition.
The first units of what is cut off stand as written, the next is torn bit by bit, and every later one holds what it held
before. An entry that is cut off has got as far as its units: the table and the counter move behind its header, the head,
the counts and the preparation behind its stop unit. The model's choice: how far the writes had got is the operand `cut`,
from units that stand in the array since the grant (log 4); a cut-off WORN header is made again with the entry behind it
(log 26); a vacating ends with its command (log 33); the resumption is the grant to which the read jobs yield (log 18);
and an entry's units take their contents (log 35). -/
def Obligations.SupplySteps : Prop :=
  (∀ (s : State) (cut : Cut), s.quiet → s.numbersLeft → s.supply.state ≠ .low →
    let n := if s.supply.dips = 32767 then s.supply.dips else s.supply.dips + 1
    let lowered := fun dips => ({ s.suspendWrites cut with supply := ⟨.low, 0, dips⟩ } : State)
    (s.rides.state = .parked → exec (.lowEntry cut) s = .next (lowered s.supply.dips).showStatus) ∧
    (s.rides.state = .riding → exec (.lowEntry cut) s =
      .next ((lowered n).takeVerdict 100 ⟨.fail, n.setWidth 16, none⟩).showStatus)) ∧
  (∀ (s : State) (cut : Cut) (n : Nat),
    let a := s.archive
    let y := s.yieldVacating cut
    let left := (s.suspendWrites cut).archive.work
    let front := fun w : Work => w.marks + (if w.entry = none then 0 else 2)
    s.suspendWrites cut = { y with archive := { y.archive.cutEntry cut.done with
      array := s.cutOff cut, work := left } } ∧
    (a.work = none → left = none ∧ a.cutEntry n = a) ∧
    (∀ w, a.work = some w → w.suspended = true → left = some w ∧ a.cutEntry n = a) ∧
    (∀ w, a.work = some w → w.suspended = false →
      (w.item = .steps → w.writes.length ≤ cut.done → left = none) ∧
      (w.item ≠ .steps ∨ cut.done < w.writes.length →
        (cut.done < w.marks → left = some { w with suspended := true }) ∧
        (w.marks ≤ cut.done → cut.done < front w → left = some { w with
          marks := 0, writes := w.writes.drop w.marks, suspended := true
          entry := w.entry.map (fun e => { e with headerHeld := e.headerHeld || decide (w.marks < cut.done) }) }) ∧
        (front w ≤ cut.done → left = some { w with
          marks := 0, entry := none, writes := w.writes.drop (front w), suspended := true })) ∧
      (w.entry = none ∨ front w ≤ n → a.cutEntry n = a) ∧
      (∀ e, w.entry = some e → n < front w →
        (e.headerHeld = true ∨ w.marks < n → a.cutEntry n = { a with
          head := e.left, preparation := none, entering := some e.segment }) ∧
        (e.headerHeld = false → n ≤ w.marks → a.cutEntry n = { a with
          head := e.left, preparation := none, segments := a.segments.set e.segment e.was
          segmentCounter := e.number }))) ∧
    (let vacating := fun p => a.preparation = some p ∧ s.mayWrite = true ∧ a.stopUnitMissing = false ∧
       a.nextCarry p = none
     ((∀ p, ¬vacating p) →
       (a.work = none → s.cutOff cut = a.array ∧ s.stopOff n = a.array) ∧
       (∀ w, a.work = some w → w.suspended = true → s.cutOff cut = a.array ∧ s.stopOff n = a.array) ∧
       (∀ w, a.work = some w → w.suspended = false → s.cutOff cut = cutWrites cut.mix cut.done w.writes a.array ∧
         s.stopOff n = stopWrites n w.writes a.array)) ∧
     (∀ p, vacating p →
       let address := 4096 * p.target.val
       let unit := packUnit (leBytes 4 0x7E52 ++ dwordBytes (a.segments.get p.target).sequence)
       let written := writeUnit a.array address unit
       let header : UnitWrite := ⟨address, readUnit a.array address, unit⟩
       (a.work = none → s.cutOff cut = cutWrites cut.mix cut.done [header] written ∧
         s.stopOff n = stopWrites n [header] written) ∧
       (∀ w, a.work = some w → s.cutOff cut = cutWrites cut.mix cut.done (w.writes ++ [header]) written ∧
         s.stopOff n = stopWrites n (w.writes ++ [header]) written)))) ∧
  (∀ (a : Archive) (i : Fin 16) (st : SegmentState),
    let counted := fun j => if a.entering = some j then .vacant else (a.segments.get j).state
    a.count st = ((indices 16).filter (fun j => decide (counted j = st))).length ∧
    (a.entering = some i → a.walk i = ⟨[], 32, .uncommitted⟩)) ∧
  (∀ s : State, s.supply.state = .low → s.startUp.supplyHold = false →
    exec .supplyRise s = .next { s with supply := { s.supply with state := .settling, settle := 20 } }) ∧
  (∀ s : State, s.quiet → s.numbersLeft → s.supply.state = .settling → s.supply.settle = 0 →
    let up : State := { s with supply := { s.supply with state := .normal } }
    (s.archive.work = none → exec .endOfSettling s = .next (up.takeVerdict 100 ⟨.pass, 0, none⟩).showStatus) ∧
    (∀ w, s.archive.work = some w → w.suspended = true →
      let y := up.yieldJobs
      let r := performWrites s.archive.array (w.writes.map (fun u => (u.address, u.new)))
      let again := fun b : Archive => exec .endOfSettling s = .next (State.takeVerdict ({ y with archive := { b with
        array := r.1, work := some ⟨w.item, w.marks, w.entry, r.2, false⟩ } } : State) 100
          ⟨.pass, 0, none⟩).showStatus
      (w.entry = none → again y.archive) ∧
      (∀ e, w.entry = some e →
        let c : Archive := { y.archive with
          segments := s.archive.segments.set e.segment ⟨.live, BitVec.ofNat 32 e.number⟩
          segmentCounter := e.number + 1, head := some ⟨e.segment, 32⟩, stopUnitMissing := false, entering := none }
        again { c with preparation := match c.nextSegment with
          | some t => if (c.segments.get t).state = .live then some ⟨t, 32, []⟩ else none
          | none => none }))) ∧
  (∀ (m : Memory) (ws : List UnitWrite) (mix : Unit64) (n : Nat), m.wf Config.arrayBytes = true →
    (ws.map UnitWrite.address).Nodup → (∀ u ∈ ws, u.address % 8 = 0 ∧ u.address < 65536) →
    let cut := cutWrites mix n ws m
    let stop := stopWrites n ws m
    (∀ k u, ws[k]? = some u →
      (k < n → readUnit cut u.address = readUnit m u.address ∧ readUnit stop u.address = readUnit m u.address) ∧
      (k = n → readUnit stop u.address = u.old ∧ ∀ b, (readUnit cut u.address).getLsbD b =
        if mix.getLsbD b then u.new.getLsbD b else u.old.getLsbD b) ∧
      (n < k → readUnit cut u.address = u.old ∧ readUnit stop u.address = u.old)) ∧
    ∀ b, (∀ u ∈ ws, b < u.address ∨ u.address + 8 ≤ b) → cut.read b = m.read b ∧ stop.read b = m.read b) ∧
  (∀ (m : Memory) (ws : List (Nat × Unit64)) (mix : Unit64) (n : Nat), m.wf Config.arrayBytes = true →
    (∀ w ∈ ws, w.1 % 8 = 0 ∧ w.1 < 65536) →
    let made := performWrites m ws
    let first := (performWrites m (ws.take n)).1
    stopWrites n made.2 made.1 = first ∧
    (ws.length ≤ n → cutWrites mix n made.2 made.1 = made.1) ∧
    (∀ a u, ws[n]? = some (a, u) → cutWrites mix n made.2 made.1 =
      writeUnit first a ((readUnit first a &&& ~~~mix) ||| (u &&& mix))) ∧
    (∀ a u, (performWrites m ((a, u) :: ws)).1 = (performWrites (writeUnit m a u) ws).1 ∧
      (performWrites m ((a, u) :: ws)).2 = ⟨a, readUnit m a, u⟩ :: (performWrites (writeUnit m a u) ws).2) ∧
    (∀ a u b, a % 8 = 0 → a < 65536 → (writeUnit m a u).read b =
      if a ≤ b ∧ b < a + 8 then (u >>> (8 * (b - a))).setWidth 8 else m.read b) ∧
    (∀ a k, k < 8 → ((readUnit m a) >>> (8 * k)).setWidth 8 = m.read (a + k)))

/-- R29, R94, R95, R174, R177, R179, R180, R183, R184, R185, R186: what each reset, the inputs that hold the device, the
end of the clearing and the end of start-up do. What the scan is to set holds the values of log 20 between a reset and
the scan; how far a write and a clearing under way had got are operands (log 4, log 7); a reset ends the port frames (logs
10 and 11) and puts 0 into the model's own field for the word last read (log 9); a fall below 1.50 V takes effect where
the supply is back (log 12); the reset input only adds to what holds the device already (log 13); of two LIVE segments
with one sequence the lower-numbered counts (log 37); and a vacating, to which read jobs have yielded, is under way before
its command (log 33): the model's choice. -/
def Obligations.ResetsAndStartUp : Prop :=
  (∀ (s : State) (cut : Cut) (n : Nat),
    let earlier := s.startUp.phase = .clearing ∨ (s.startUp.clearingCut = true ∧ s.startUp.phase ≠ .running)
    let kept := fun t : State => t.archive.array = s.cutOff cut ∧
      (s.startUp.phase ≠ .clearing → t.exchange.cells = (s.yieldVacating cut).exchange.cells) ∧
      (s.startUp.phase = .clearing → s.MemoryInv → ∀ b,
        t.exchange.cells.read b = if b < 2 * (n / 2) then 0 else s.exchange.cells.read b)
    (∃ t, exec (.powerOn cut n) s = .next t ∧ s.AfterReset t .powerOn ∧ kept t ∧
      t.supply = ⟨.low, 0, 0⟩ ∧ t.startUp.supplyHold = false ∧ t.startUp.resetLow = s.startUp.resetLow ∧
      t.startUp.phase = (if s.startUp.resetLow then .held else .clearing)) ∧
    (s.startUp.supplyHold = false →
      ∃ t, exec (.supplyReset cut n) s = .next t ∧ s.AfterReset t .supply ∧ kept t ∧ t.supply = ⟨.low, 0, 0⟩ ∧
        t.startUp.supplyHold = true ∧ t.startUp.phase = .held) ∧
    (s.startUp.supplyHold = true → exec (.supplyReset cut n) s = .next s) ∧
    (s.startUp.phase = .held → exec (.lineReset cut n false) s = .next { s with startUp := { s.startUp with
      resetLow := true } }) ∧
    (s.startUp.phase = .held → s.startUp.supplyHold = true → exec (.lineReset cut n true) s = .next { s with
      startUp := { s.startUp with resetLow := false } }) ∧
    (s.startUp.phase = .held → s.startUp.supplyHold = false →
      ∃ t, exec (.lineReset cut n true) s = .next t ∧ t.StartUpBegun ∧
        t.startUp = { s.startUp with resetLow := false, phase := t.startUp.phase } ∧
        t.exchange.cells = s.exchange.cells ∧ t.archive = s.archive ∧
        (t.startUp.phase = .scanning → t.exchange.status = { s.exchange.status with partState := 1 })) ∧
    (∀ released : Bool, s.startUp.phase ≠ .held →
      ∃ t, exec (.lineReset cut n released) s = .next t ∧ kept t ∧ t.exchange.status.partState = 1 ∧
        (s.startUp.phase ≠ .clearing → t.exchange.status = { s.exchange.status with partState := 1 }) ∧
        (earlier → s.AfterReset t s.startUp.cause) ∧ (¬earlier → s.AfterReset t .line) ∧
        t.supply = { s.supply with dips := 0 } ∧ t.startUp.resetLow = !released ∧
        t.startUp.phase = (if released then .scanning else .held))) ∧
  (∀ s : State, s.startUp.resetLow = true → s.startUp.supplyHold = false →
    ∃ t, exec .resetInputReleased s = .next t ∧ t.StartUpBegun ∧
      t.startUp = { s.startUp with resetLow := false, phase := t.startUp.phase } ∧
      t.exchange.cells = s.exchange.cells ∧ t.archive = s.archive ∧
      (t.startUp.phase = .scanning → t.exchange.status = { s.exchange.status with partState := 1 })) ∧
  (∀ s : State,
    (s.startUp.resetLow = true → s.startUp.supplyHold = true → exec .resetInputReleased s = .next { s with
      startUp := { s.startUp with resetLow := false } }) ∧
    (s.startUp.resetLow = false → exec .resetInputReleased s = .next s) ∧
    (s.startUp.supplyHold = true → s.startUp.resetLow = true →
      exec (.supplyReaches280V false) s = .next { s with startUp := { s.startUp with supplyHold := false } } ∧
      ∃ t, exec (.supplyReaches280V true) s = .next t ∧ s.AfterReset t .powerOn ∧ t.startUp.phase = .held ∧
        t.startUp.supplyHold = false ∧ t.startUp.resetLow = true ∧ t.startUp.clearingCut = false ∧
        t.exchange.cells = s.exchange.cells ∧ t.archive.array = s.archive.array ∧ t.supply = ⟨.low, 0, 0⟩) ∧
    (∀ fell, s.startUp.supplyHold = false → exec (.supplyReaches280V fell) s = .next s)) ∧
  (∀ s : State, s.startUp.supplyHold = true → s.startUp.resetLow = false →
    (∃ t, exec (.supplyReaches280V false) s = .next t ∧ t.StartUpBegun ∧
      t.startUp = { s.startUp with supplyHold := false, phase := t.startUp.phase } ∧
      t.exchange.cells = s.exchange.cells ∧ t.archive = s.archive ∧ t.supply = s.supply ∧ t.rides = s.rides) ∧
    (∃ t, exec (.supplyReaches280V true) s = .next t ∧ s.AfterReset t .powerOn ∧ t.startUp.phase = .clearing ∧
      t.startUp.supplyHold = false ∧ t.exchange.cells = s.exchange.cells ∧ t.archive.array = s.archive.array ∧
      t.supply = ⟨.low, 0, 0⟩)) ∧
  (∀ s : State, s.startUp.phase = .clearing → exec .clearingComplete s = .next { s with
    exchange := { s.exchange with cells := [], status := { StatusArea.zero with partState := 1 } }
    startUp := { s.startUp with phase := .scanning } }) ∧
  (∀ s : State, s.startUp.phase = .scanning →
    let a := scanArchive s.archive.array
    let adopted := s.startUp.adoptRemembered = true ∧ s.exchange.readLayout.validate = .ok
    let restored : Table 102 Monitor := .tabulate (fun m => match a.newestSummaryRecord with
      | none => s.monitor m
      | some r => { s.monitor m with
          confirmed := byteBit ((r.statusEntry s.archive.array m).getD 0 0) 5
          failRides := ((r.statusEntry s.archive.array m).getD 1 0).setWidth 4
          cleanRides := (r.statusEntry s.archive.array m).getD 2 0 })
    let rebuilt := reconstructRides a restored a.orphanRides
    let highest := fun (f : Stored → Nat) (rs : List Stored) (n : Nat) =>
      (∀ r ∈ rs, f r ≤ n) ∧ (n = 0 ∨ ∃ r ∈ rs, f r = n)
    ∃ t, exec .startUpEnd s = .next t ∧ t.startUp.phase = .running ∧ t.startUp.adoptRemembered = false ∧
      (adopted → t.startUp.part = .ready ∧ t.exchange.layout = some s.exchange.readLayout) ∧
      (¬adopted → t.startUp.part = .unconfigured ∧ t.exchange.layout = s.exchange.layout) ∧
      t.exchange.cells = s.exchange.cells ∧ t.archive.array = s.archive.array ∧
      (∀ i, t.archive.segments.get i = readHeader s.archive.array i) ∧ t.supply = s.supply ∧ t.StatusInv ∧
      (∀ m, t.monitor m = rebuilt.1.get m) ∧
      t.startUp.tornRecords = BitVec.ofNat 16 (scanHead s.archive.array a.segments).2.1 ∧
      t.startUp.duplicatesResolved = BitVec.ofNat 16 a.disregarded.length ∧
      t.startUp.orphanRides = BitVec.ofNat 16 a.orphanRides.length ∧
      (∃ n, highest (fun r => r.episode.toNat) a.liveRecords n ∧
        t.episodes.counter = if n = 0xFFFFFFFF then 1 else BitVec.ofNat 32 (n + 1)) ∧
      (∃ n, highest (fun r => r.ride.toNat) (a.liveRecords.filter (fun r => decide (a.wipeSequence ≤ r.sequence))) n ∧
        (s.startUp.cause = .powerOn ∨ s.startUp.cause = .supply → t.rides.number = BitVec.ofNat 16 n) ∧
        (s.startUp.cause = .line ∨ s.startUp.cause = .restart →
          t.rides.number = BitVec.ofNat 16 (max n s.exchange.status.rideNumber.toNat))) ∧
      (a.orphanRides = [] ∨ a.state = .stopped → t.archive = a) ∧
      (a.state = .running → a.sequenceCounter + 48 ≤ 2 ^ 32 →
        t.archive.queue.map Descriptor.record = rebuilt.2.drop (rebuilt.2.length - 48) ∧
        ∀ d ∈ t.archive.queue, d.waiting = none ∧ d.attempt = .first))

/-- R138, R139, R142, R144, R154, R158, R180, R181, R182, R183, R185, R193: what the scan makes of an array, by the bytes
of its headers and of the fields it reads in bodies: the segment table, the head segment and the records it accepts there,
the duplicates it disregards, the counters and choices it rebuilds, the archive state, the preparation it resumes, the
orphan rides, and what each orphan ride makes of the monitors and its summary. That two records of one sequence in LIVE
segments of one segment sequence are both kept is log 37, the model's choice. -/
def Obligations.ScanRebuilds : Prop :=
  (∀ m : Memory,
    let a := scanArchive m
    let live := fun i => (a.segments.get i).state = .live
    let sq := fun i => (a.segments.get i).sequence.toNat
    let kept := a.liveRecords
    let present := fun r => r ∈ kept ∧ a.wipeSequence.toNat ≤ r.sequence.toNat
    let base := (a.newestSummaryRecord.map Stored.ride).getD 0
    a.array = m ∧ a.queue = [] ∧ a.work = none ∧ a.entering = none ∧ a.jobs = .both none ∧
    (∀ i, a.segments.get i = readHeader m i) ∧
    ((∀ i, ¬live i) → a.head = none ∧ a.stopUnitMissing = false) ∧
    (∀ i, live i → (∀ j, live j → j ≠ i → sq j < sq i) →
      let w := walkSegment m i
      let elsewhere := fun r : Stored => ∀ j, j ≠ i → live j → ∀ q ∈ (walkSegment m j).records, q.carried = false →
        q.sequence.toNat < r.sequence.toNat
      let accepted := fun (before : List Stored) (r : Stored) =>
        (r.carried = true ∧ ∀ q ∈ before, q.carried = true) ∨ elsewhere r
      (∀ before r after, w.records = before ++ r :: after → ¬accepted before r →
        (∀ b q c, before = b ++ q :: c → accepted b q) →
        a.head = some ⟨i, r.offset⟩ ∧ a.stopUnitMissing = true ∧ (scanHead m a.segments).2.1 = 0) ∧
      ((∀ before r after, w.records = before ++ r :: after → accepted before r) →
        a.head = some ⟨i, w.endOffset⟩ ∧ a.stopUnitMissing = false ∧
        (scanHead m a.segments).2.1 = if w.ended = .uncommitted then 1 else 0)) ∧
    (∀ segment offset, (segment, offset) ∈ a.disregarded ↔ ∃ r q,
      r ∈ ({ a with disregarded := [] } : Archive).liveRecords ∧ q ∈ ({ a with disregarded := [] } : Archive).liveRecords ∧
      r.sequence = q.sequence ∧ sq r.segment < sq q.segment ∧ r.segment = segment ∧ r.offset = offset) ∧
    (∀ i, sq i < a.segmentCounter) ∧ (a.segmentCounter = 1 ∨ ∃ i, a.segmentCounter = sq i + 1) ∧
    (∀ r ∈ kept, r.sequence.toNat < a.sequenceCounter) ∧
    (a.sequenceCounter = 1 ∨ ∃ r ∈ kept, a.sequenceCounter = r.sequence.toNat + 1) ∧
    (∀ r ∈ kept, r.isMarker m .wipe = true → r.sequence.toNat ≤ a.wipeSequence.toNat) ∧
    (a.wipeSequence = 0 ∨ ∃ r ∈ kept, r.isMarker m .wipe = true ∧ r.sequence = a.wipeSequence) ∧
    (∀ r, present r → r.generation.toNat ≤ a.pinGeneration.toNat ∧
      (r.isMarker m .release = true → (r.markerGeneration m).toNat ≤ a.pinGeneration.toNat)) ∧
    (a.pinGeneration = 0 ∨ ∃ r, present r ∧ (r.generation = a.pinGeneration ∨
      (r.isMarker m .release = true ∧ r.markerGeneration m = a.pinGeneration))) ∧
    (∀ (kind : Stored → Prop) (newest : Option DWord),
      (kind = fun r => r.kind = .summary) ∧ newest = a.newestSummary ∨
      (kind = fun r => r.isMarker m .release = true) ∧ newest = a.newestRelease ∨
      (kind = fun r => r.isMarker m .wipe = true) ∧ newest = a.newestWipe →
      (∀ r, present r → kind r → ∃ q, newest = some q ∧ r.sequence.toNat ≤ q.toNat) ∧
      (∀ q, newest = some q → ∃ r, present r ∧ kind r ∧ r.sequence = q)) ∧
    a.pinnedBytes = lengthsOnce (kept.filter (fun r =>
      r.pinned && decide (r.generation = a.pinGeneration) && decide (a.wipeSequence ≤ r.sequence))) ∧
    (a.state = .stopped ↔ 5 ≤ a.count .worn ∨ 2 ^ 32 ≤ a.sequenceCounter ∨ 2 ^ 32 ≤ a.segmentCounter) ∧
    (∀ p, a.preparation = some p ↔ a.state = .running ∧ a.head ≠ none ∧
      ∃ t, a.nextSegment = some t ∧ live t ∧ p = ⟨t, 32, []⟩) ∧
    (∀ n, n ∈ a.orphanRides ↔ base.toNat < n.toNat ∧
      ∃ r, present r ∧ r.kind = .onset ∧ r.parked m = false ∧ r.ride = n) ∧
    a.orphanRides.Pairwise (fun n k => n.toNat < k.toNat)) ∧
  (∀ (a : Archive) (t : Table 102 Monitor) (ride : Word) (rest : List Word), ride ∈ a.orphanRides →
    let onset := fun (m : MonitorId) => ∃ r ∈ a.liveRecords, a.wipeSequence.toNat ≤ r.sequence.toNat ∧ r.kind = .onset ∧
      r.parked a.array = false ∧ r.ride = ride ∧ r.monitor = m.val
    ∃ (u : Table 102 Monitor) (entries : List DWord),
      (∀ m, onset m →
        let v := t.get m
        let fails := if v.failRides = 15 then v.failRides else v.failRides + 1
        u.get m = { v with failRides := fails, cleanRides := 0
                           confirmed := v.confirmed || decide ((if 96 ≤ m.val then 1 else 3) ≤ fails.toNat) } ∧
        entries[m.val]? = some ({ u.get m with failedThisRide := true } : Monitor).statusEntry) ∧
      (∀ m, ¬onset m → u.get m = t.get m ∧
        entries[m.val]? = some ({ u.get m with failedThisRide := false } : Monitor).statusEntry) ∧
      entries.length = 102 ∧
      reconstructRides a t (ride :: rest) = ((reconstructRides a u rest).1,
        ⟨.summary ride true false false 0 0 entries, .information, ride, none, .device, 0⟩ ::
          (reconstructRides a u rest).2) ∧
      reconstructRides a t [] = (t, [])) ∧
  (∀ (m : Memory) (i : Fin 16),
    let at' := fun k => (m.read (4096 * i.val + k)).toNat
    let code := at' 0 + 256 * at' 1
    let number : DWord := BitVec.ofNat 32 (at' 4 + 256 * at' 5 + 65536 * at' 6 + 16777216 * at' 7)
    (code = 0x7E31 → readHeader m i = ⟨.live, number⟩) ∧ (code = 0x7E52 → readHeader m i = ⟨.vacant, number⟩) ∧
    (code = 0x7E94 → readHeader m i = ⟨.worn, number⟩) ∧
    (code ≠ 0x7E31 → code ≠ 0x7E52 → code ≠ 0x7E94 → readHeader m i = ⟨.vacant, 0⟩)) ∧
  (∀ (m : Memory) (r : Stored),
    let at' := fun k => m.read (4096 * r.segment.val + r.offset + k)
    (r.isMarker m .wipe = true ↔ r.kind = .marker ∧ at' 24 = 1) ∧
    (r.isMarker m .release = true ↔ r.kind = .marker ∧ at' 24 = 2) ∧
    (r.markerGeneration m).toNat =
      (at' 28).toNat + 256 * (at' 29).toNat + 65536 * (at' 30).toNat + 16777216 * (at' 31).toNat ∧
    r.parked m = (at' 31).getLsbD 1 ∧
    ∀ id : MonitorId, r.statusEntry m id = [at' (40 + 4 * id.val), at' (41 + 4 * id.val), at' (42 + 4 * id.val),
      at' (43 + 4 * id.val)])
end

