-- ==== Sys2Proof/Laws/Memory.lean ====
section
/-! SUPPORT. Laws of memory: what each operation reads back as, and that each keeps the canonical form. -/

namespace Sys2Proof.Machine

/-! ## The canonical form -/

theorem Memory.wfFrom_mono {size : Nat} {m : Memory} {low low' : Nat} (hle : low' ≤ low)
    (h : Memory.wfFrom size low m = true) : Memory.wfFrom size low' m = true := by
  cases m with
  | nil => rfl
  | cons c rest =>
    obtain ⟨k, v⟩ := c
    simp only [Memory.wfFrom, Bool.and_eq_true, decide_eq_true_eq] at h ⊢
    exact ⟨⟨⟨by omega, h.1.1.2⟩, h.1.2⟩, h.2⟩

theorem Memory.wfFrom_put {size a : Nat} {b : Byte} (ha : a < size) :
    ∀ {m : Memory} {low : Nat}, low ≤ a → Memory.wfFrom size low m = true →
      Memory.wfFrom size low (m.put a b) = true := by
  intro m
  induction m with
  | nil =>
    intro low hl _
    by_cases hb : b = 0#8
    · simp [Memory.put, hb, Memory.wfFrom]
    · simp [Memory.put, hb, Memory.wfFrom, hl, ha]
  | cons c rest ih =>
    intro low hl h
    obtain ⟨k, v⟩ := c
    simp only [Memory.wfFrom, Bool.and_eq_true, decide_eq_true_eq, bne_iff_ne, ne_eq] at h
    obtain ⟨⟨⟨h1, h2⟩, h3⟩, h4⟩ := h
    by_cases hlt : a < k
    · by_cases hb : b = 0#8
      · simp [Memory.put, hlt, hb, Memory.wfFrom, h1, h2, show ¬v = 0#8 from h3, h4]
      · simp only [Memory.put, if_pos hlt, show ¬b = 0 from hb, if_false, Memory.wfFrom, Bool.and_eq_true, decide_eq_true_eq, bne_iff_ne,
          ne_eq]
        exact ⟨⟨⟨hl, ha⟩, not_false⟩, ⟨⟨by omega, h2⟩, h3⟩, h4⟩
    · by_cases heq : a = k
      · subst heq
        by_cases hb : b = 0#8
        · simp only [Memory.put, if_neg hlt, hb, ↓reduceIte]
          exact Memory.wfFrom_mono (by omega) h4
        · simp only [Memory.put, if_neg hlt, show ¬b = 0 from hb, ↓reduceIte, Memory.wfFrom, Bool.and_eq_true, decide_eq_true_eq,
            bne_iff_ne, ne_eq]
          exact ⟨⟨⟨hl, ha⟩, not_false⟩, h4⟩
      · simp only [Memory.put, if_neg hlt, if_neg heq, Memory.wfFrom, Bool.and_eq_true, decide_eq_true_eq, bne_iff_ne,
          ne_eq]
        exact ⟨⟨⟨h1, h2⟩, h3⟩, ih (by omega) h4⟩

/-- A write keeps the canonical form. -/
theorem Memory.wf_write {size : Nat} {m : Memory} (a : Nat) (b : Byte) (h : m.wf size = true) :
    (m.write size a b).wf size = true := by
  unfold Memory.write
  split
  · exact Memory.wfFrom_put ‹_› (by omega) h
  · exact h

/-- A run of bytes written keeps the canonical form. -/
theorem Memory.wf_writeBytes {size : Nat} :
    ∀ (bytes : List Byte) (m : Memory) (a : Nat), m.wf size = true → (m.writeBytes size a bytes).wf size = true
  | [], _, _, h => h
  | b :: rest, _, a, h => Memory.wf_writeBytes rest _ _ (Memory.wf_write a b h)

/-- Clearing the bytes below an address keeps the canonical form. -/
theorem Memory.wf_clearBelow {size limit : Nat} :
    ∀ (m : Memory) (low : Nat), Memory.wfFrom size low m = true → Memory.wfFrom size low (m.clearBelow limit) = true
  | [], _, h => h
  | (k, v) :: rest, low, h => by
    unfold Memory.clearBelow
    split
    · simp only [Memory.wfFrom, Bool.and_eq_true, decide_eq_true_eq] at h
      exact Memory.wf_clearBelow rest low (Memory.wfFrom_mono (by omega) h.2)
    · exact h

theorem writeUnit_wf {m : Memory} (a : Nat) (u : Unit64) (h : m.wf Config.arrayBytes = true) :
    (writeUnit m a u).wf Config.arrayBytes = true := Memory.wf_writeBytes _ _ _ h

theorem performWrites_wf :
    ∀ (ws : List (Nat × Unit64)) (m : Memory), m.wf Config.arrayBytes = true →
      (performWrites m ws).1.wf Config.arrayBytes = true
  | [], _, h => h
  | (a, u) :: rest, _, h => performWrites_wf rest _ (writeUnit_wf a u h)

theorem foldr_writeUnit_wf (m : Memory) (h : m.wf Config.arrayBytes = true) :
    ∀ ws : List UnitWrite,
      (ws.foldr (fun x acc => writeUnit acc x.address x.old) m).wf Config.arrayBytes = true
  | [] => h
  | _ :: rest => writeUnit_wf _ _ (foldr_writeUnit_wf m h rest)

theorem cutWrites_wf (mix : Unit64) :
    ∀ (done : Nat) (ws : List UnitWrite) (m : Memory), m.wf Config.arrayBytes = true →
      (cutWrites mix done ws m).wf Config.arrayBytes = true
  | _, [], _, h => by unfold cutWrites; exact h
  | 0, _ :: rest, _, h => writeUnit_wf _ _ (foldr_writeUnit_wf _ h rest)
  | n + 1, _ :: rest, m, h => cutWrites_wf mix n rest m h

theorem stopWrites_wf (done : Nat) (ws : List UnitWrite) (m : Memory) (h : m.wf Config.arrayBytes = true) :
    (stopWrites done ws m).wf Config.arrayBytes = true := foldr_writeUnit_wf m h _

theorem misread_wf :
    ∀ (ws : List UnitWrite) (flips : List Unit64) (m : Memory), m.wf Config.arrayBytes = true →
      (misread ws flips m).wf Config.arrayBytes = true
  | [], _, _, h => by unfold misread; exact h
  | _ :: _, [], _, h => h
  | _ :: rest, _ :: flips, _, h => misread_wf rest flips _ (writeUnit_wf _ _ h)

/-! ## Reading back -/

theorem Memory.read_below {size : Nat} :
    ∀ {m : Memory} {low a : Nat}, Memory.wfFrom size low m = true → a < low → m.read a = 0
  | [], _, _, _, _ => rfl
  | (k, v) :: rest, low, a, h, ha => by
    simp only [Memory.wfFrom, Bool.and_eq_true, decide_eq_true_eq] at h
    simp [Memory.read, show a < k by omega]

theorem Memory.read_put {size : Nat} :
    ∀ {m : Memory} {low : Nat}, Memory.wfFrom size low m = true → ∀ (a : Nat) (b : Byte) (x : Nat),
      (m.put a b).read x = if x = a then b else m.read x := by
  intro m
  induction m with
  | nil =>
    intro low _ a b x
    by_cases hb : b = 0#8 <;> by_cases hx : x = a <;> simp [Memory.put, Memory.read, hb, hx]
  | cons c rest ih =>
    intro low h a b x
    obtain ⟨k, v⟩ := c
    simp only [Memory.wfFrom, Bool.and_eq_true, decide_eq_true_eq] at h
    have hbelow : ∀ y, y ≤ k → Memory.read rest y = 0#8 := fun y hy =>
      Memory.read_below h.2 (by omega)
    by_cases hlt : a < k
    · by_cases hb : b = 0#8
      · by_cases hx : x = a
        · subst hx; simp [Memory.put, hlt, hb, Memory.read]
        · simp [Memory.put, hlt, hb, hx]
      · by_cases hx : x = a
        · subst hx; simp [Memory.put, hlt, hb, Memory.read]
        · by_cases hxa : x < a
          · simp [Memory.put, hlt, hb, Memory.read, hx, hxa, show x < k by omega]
          · simp [Memory.put, hlt, hb, Memory.read, hx, hxa]
    · by_cases heq : a = k
      · subst heq
        by_cases hb : b = 0#8
        · simp only [Memory.put, if_neg hlt, hb, ↓reduceIte, Memory.read]
          by_cases hx : x = a
          · subst hx; simp [hbelow x (Nat.le_refl _)]
          · by_cases hxa : x < a
            · simp [hx, hxa, hbelow x (by omega)]
            · simp [hx, hxa]
        · simp only [Memory.put, if_neg hlt, show ¬b = 0 from hb, ↓reduceIte, Memory.read]
          by_cases hx : x = a
          · simp [hx]
          · simp [hx]
      · simp only [Memory.put, if_neg hlt, if_neg heq, Memory.read, ih h.2]
        by_cases hx : x = a
        · subst hx; simp [hlt, heq]
        · simp [hx]

/-- What a byte reads as after a write. -/
theorem Memory.read_write {size : Nat} {m : Memory} (h : m.wf size = true) (a : Nat) (b : Byte) (x : Nat) :
    (m.write size a b).read x = if x = a ∧ a < size then b else m.read x := by
  unfold Memory.write
  split
  · rw [Memory.read_put h]; simp [*]
  · simp [*]

/-- What a byte reads as after a run of bytes has been written. -/
theorem Memory.read_writeBytes {size : Nat} :
    ∀ (bytes : List Byte) (m : Memory) (a x : Nat), m.wf size = true →
      (m.writeBytes size a bytes).read x =
        if a ≤ x ∧ x < a + bytes.length ∧ x < size then bytes.getD (x - a) 0 else m.read x
  | [], m, a, x, _ => by rw [if_neg (by simp; omega)]; rfl
  | b :: rest, m, a, x, h => by
    rw [Memory.writeBytes, Memory.read_writeBytes rest _ (a + 1) x (Memory.wf_write a b h), Memory.read_write h]
    simp only [List.length_cons]
    by_cases hx : x = a
    · subst hx
      by_cases hs : x < size
      · simp [hs, show ¬(x + 1 ≤ x) by omega]
      · simp [hs]
    · by_cases hr : a + 1 ≤ x ∧ x < a + 1 + rest.length ∧ x < size
      · rw [if_pos hr, if_pos (by omega)]
        have : x - a = (x - (a + 1)) + 1 := by omega
        rw [this, List.getD_cons_succ]
      · rw [if_neg hr, if_neg (by omega), if_neg (by omega)]

/-- A byte outside a run of bytes written reads as before. -/
theorem Memory.read_writeBytes_outside {size : Nat} (bytes : List Byte) (m : Memory) (a x : Nat)
    (h : m.wf size = true) (hx : x < a ∨ a + bytes.length ≤ x) : (m.writeBytes size a bytes).read x = m.read x := by
  rw [Memory.read_writeBytes bytes m a x h, if_neg (by omega)]

/-! ## Exchange memory -/

theorem Exchange.writeByte_layout (x : Exchange) (a : Nat) (b : Byte) : (x.writeByte a b).layout = x.layout := by
  unfold Exchange.writeByte; split <;> rfl

theorem Exchange.writeByte_status (x : Exchange) (a : Nat) (b : Byte) : (x.writeByte a b).status = x.status := by
  unfold Exchange.writeByte; split <;> rfl

theorem Exchange.writeByte_wf {x : Exchange} (a : Nat) (b : Byte) (h : x.cells.wf Config.exchangeBytes = true) :
    (x.writeByte a b).cells.wf Config.exchangeBytes = true := by
  unfold Exchange.writeByte
  split
  · exact h
  · exact Memory.wf_write a b h

/-- The device's writes leave the adopted layout as it is. -/
theorem Exchange.writeBytes_layout : ∀ (bytes : List Byte) (x : Exchange) (a : Nat),
    (x.writeBytes a bytes).layout = x.layout
  | [], _, _ => rfl
  | b :: rest, x, a => by rw [Exchange.writeBytes, Exchange.writeBytes_layout rest, Exchange.writeByte_layout]

/-- Writes outside the status area leave what it shows. -/
theorem Exchange.writeBytes_status : ∀ (bytes : List Byte) (x : Exchange) (a : Nat),
    (x.writeBytes a bytes).status = x.status
  | [], _, _ => rfl
  | b :: rest, x, a => by rw [Exchange.writeBytes, Exchange.writeBytes_status rest, Exchange.writeByte_status]

/-- A run of bytes written into exchange memory keeps the canonical form. -/
theorem Exchange.writeBytes_wf : ∀ (bytes : List Byte) (x : Exchange) (a : Nat),
    x.cells.wf Config.exchangeBytes = true → (x.writeBytes a bytes).cells.wf Config.exchangeBytes = true
  | [], _, _, h => h
  | b :: rest, _, a, h => Exchange.writeBytes_wf rest _ _ (Exchange.writeByte_wf a b h)

theorem Exchange.writeWord_layout (x : Exchange) (a : Nat) (w : Word) : (x.writeWord a w).layout = x.layout :=
  Exchange.writeBytes_layout _ _ _

theorem Exchange.writeWord_status (x : Exchange) (a : Nat) (w : Word) : (x.writeWord a w).status = x.status :=
  Exchange.writeBytes_status _ _ _

theorem Exchange.writeWord_wf {x : Exchange} (a : Nat) (w : Word) (h : x.cells.wf Config.exchangeBytes = true) :
    (x.writeWord a w).cells.wf Config.exchangeBytes = true := Exchange.writeBytes_wf _ _ _ h

/-- What a byte of exchange memory reads as after one byte has been written. -/
theorem Exchange.readByte_writeByte {x : Exchange} (h : x.cells.wf Config.exchangeBytes = true) (a : Nat) (b : Byte)
    (y : Nat) :
    (x.writeByte a b).readByte y =
      if y = a ∧ a < Config.exchangeBytes ∧ inStatusArea a = false then b else x.readByte y := by
  unfold Exchange.writeByte Exchange.readByte
  by_cases ha : inStatusArea a = true
  · simp [ha]
  · have ha' : inStatusArea a = false := by simpa using ha
    simp only [ha', Bool.false_eq_true, if_false]
    by_cases hy : inStatusArea y = true
    · have : y ≠ a := fun e => by rw [e] at hy; exact ha hy
      simp [hy, this]
    · simp only [hy, Memory.read_write h, and_true]
      rfl

end Sys2Proof.Machine
end

