-- ==== Sys2Proof/Laws/Tables.lean ====
section
/-! SUPPORT. The laws of pairs and tables: reading back what was written. -/

namespace Sys2Proof

@[simp] theorem Side.other_other (x : Side) : x.other.other = x := by cases x <;> rfl

theorem Side.eq_or_other (x y : Side) : y = x ∨ y = x.other := by cases x <;> cases y <;> simp [Side.other]

@[simp] theorem Side.other_ne (x : Side) : x.other ≠ x := by cases x <;> simp [Side.other]

@[simp] theorem Side.ne_other (x : Side) : x ≠ x.other := by cases x <;> simp [Side.other]

@[simp] theorem Sides.get_set_self {α : Type} (p : Sides α) (x : Side) (v : α) : (p.set x v).get x = v := by
  cases x <;> rfl

@[simp] theorem Sides.get_set_other {α : Type} (p : Sides α) (x : Side) (v : α) :
    (p.set x v).get x.other = p.get x.other := by cases x <;> rfl

theorem Sides.get_set {α : Type} (p : Sides α) (x y : Side) (v : α) :
    (p.set x v).get y = if y = x then v else p.get y := by cases x <;> cases y <;> rfl

theorem Sides.get_set_ne {α : Type} (p : Sides α) {x y : Side} (h : y ≠ x) (v : α) :
    (p.set x v).get y = p.get y := by rw [Sides.get_set, if_neg h]

@[simp] theorem Sides.get_both {α : Type} (v : α) (x : Side) : (Sides.both v).get x = v := by cases x <;> rfl

@[simp] theorem Sides.set_get {α : Type} (p : Sides α) (x : Side) : p.set x (p.get x) = p := by cases x <;> rfl

@[simp] theorem Sides.set_set {α : Type} (p : Sides α) (x : Side) (v w : α) : (p.set x v).set x w = p.set x w := by
  cases x <;> rfl

@[ext] theorem Sides.ext_get {α : Type} {p q : Sides α} (h : ∀ x, p.get x = q.get x) : p = q := by
  have he := h .engine
  have hb := h .brake
  cases p; cases q
  simp only [Sides.get] at he hb
  rw [he, hb]

theorem Table.get_set {n : Nat} {α : Type} (t : Table n α) (i j : Fin n) (v : α) :
    (t.set i v).get j = if j = i then v else t.get j := by
  simp only [Table.get, Table.set, List.getElem_set]
  by_cases h : j = i
  · subst h; simp
  · have : i.val ≠ j.val := fun e => h (Fin.ext e.symm)
    simp [h, this]

@[simp] theorem Table.get_set_self {n : Nat} {α : Type} (t : Table n α) (i : Fin n) (v : α) :
    (t.set i v).get i = v := by rw [Table.get_set, if_pos rfl]

theorem Table.get_set_ne {n : Nat} {α : Type} (t : Table n α) {i j : Fin n} (h : j ≠ i) (v : α) :
    (t.set i v).get j = t.get j := by rw [Table.get_set, if_neg h]

@[simp] theorem Table.get_map {n : Nat} {α β : Type} (t : Table n α) (f : α → β) (i : Fin n) :
    (t.map f).get i = f (t.get i) := by simp [Table.get, Table.map]

@[simp] theorem Table.get_fill {n : Nat} {α : Type} (v : α) (i : Fin n) : (Table.fill n v).get i = v := by
  simp [Table.get, Table.fill]

@[simp] theorem Table.get_tabulate {n : Nat} {α : Type} (f : Fin n → α) (i : Fin n) :
    (Table.tabulate f).get i = f i := by simp [Table.get, Table.tabulate, indices]

theorem mem_indices {n : Nat} (i : Fin n) : i ∈ indices n := List.mem_finRange i

/-- A value of a table is among its cells. -/
theorem Table.get_mem {n : Nat} {α : Type} (t : Table n α) (i : Fin n) : t.get i ∈ t.cells := by
  simp [Table.get]

/-- The number of a saturating counter after one more (00_scope, Counters). -/
theorem satInc_toNat {n : Nat} (x : BitVec n) : (satInc x).toNat = min (x.toNat + 1) (2 ^ n - 1) := by
  unfold satInc
  have hx := x.isLt
  split
  · rename_i h
    subst h
    simp only [BitVec.toNat_allOnes]
    omega
  · rename_i h
    have hne : x.toNat ≠ 2 ^ n - 1 := by
      intro e
      apply h
      apply BitVec.eq_of_toNat_eq
      rw [BitVec.toNat_allOnes, e]
    rcases n with _ | n
    · have := x.isLt; simp only [Nat.pow_zero, Nat.lt_one_iff] at this; simp [this] at hne
    · have h1 : (1#(n + 1)).toNat = 1 := by simp
      rw [BitVec.toNat_add, show ((1 : BitVec (n + 1))).toNat = 1 from h1, Nat.mod_eq_of_lt (by omega)]
      omega

end Sys2Proof
end

