-- ==== Sys2Proof/Laws/State.lean ====
section
/-! SUPPORT. One equation per field of `State` for each named update: the block that changes and what it becomes, and
the blocks that stay. A `_frame` lemma leaves out the blocks whose new value is best read from the definition. -/

namespace Sys2Proof.Machine

@[simp] theorem State.withPending_fields (s : State) (q : List Instr) :
    (s.withPending q).pending = q ∧
    (s.withPending q).ports = s.ports ∧
    (s.withPending q).exchange = s.exchange ∧
    (s.withPending q).chains = s.chains ∧
    (s.withPending q).intake = s.intake ∧
    (s.withPending q).qual = s.qual ∧
    (s.withPending q).episodes = s.episodes ∧
    (s.withPending q).snaps = s.snaps ∧
    (s.withPending q).rides = s.rides ∧
    (s.withPending q).archive = s.archive ∧
    (s.withPending q).supply = s.supply ∧
    (s.withPending q).startUp = s.startUp ∧
    (s.withPending q).draws = s.draws :=
  ⟨rfl, rfl, rfl, rfl, rfl, rfl, rfl, rfl, rfl, rfl, rfl, rfl, rfl⟩

@[simp] theorem State.latch_fields (s : State) (x : Side) (n : Notice) :
    (s.latch x n).pending = s.pending ∧
    (s.latch x n).ports = s.ports.set x ((s.ports.get x).latch n) ∧
    (s.latch x n).exchange = s.exchange ∧
    (s.latch x n).chains = s.chains ∧
    (s.latch x n).intake = s.intake ∧
    (s.latch x n).qual = s.qual ∧
    (s.latch x n).episodes = s.episodes ∧
    (s.latch x n).snaps = s.snaps ∧
    (s.latch x n).rides = s.rides ∧
    (s.latch x n).archive = s.archive ∧
    (s.latch x n).supply = s.supply ∧
    (s.latch x n).startUp = s.startUp ∧
    (s.latch x n).draws = s.draws :=
  ⟨rfl, rfl, rfl, rfl, rfl, rfl, rfl, rfl, rfl, rfl, rfl, rfl, rfl⟩

@[simp] theorem State.driveOut_fields (s : State) (x : Side) (w : Word) :
    (s.driveOut x w).pending = s.pending ∧
    (s.driveOut x w).ports = s.ports.set x { s.ports.get x with readData := w } ∧
    (s.driveOut x w).exchange = s.exchange ∧
    (s.driveOut x w).chains = s.chains ∧
    (s.driveOut x w).intake = s.intake ∧
    (s.driveOut x w).qual = s.qual ∧
    (s.driveOut x w).episodes = s.episodes ∧
    (s.driveOut x w).snaps = s.snaps ∧
    (s.driveOut x w).rides = s.rides ∧
    (s.driveOut x w).archive = s.archive ∧
    (s.driveOut x w).supply = s.supply ∧
    (s.driveOut x w).startUp = s.startUp ∧
    (s.driveOut x w).draws = s.draws :=
  ⟨rfl, rfl, rfl, rfl, rfl, rfl, rfl, rfl, rfl, rfl, rfl, rfl, rfl⟩

@[simp] theorem State.markFrame_fields (s : State) (x : Side) (b : Bool) :
    (s.markFrame x b).pending = s.pending ∧
    (s.markFrame x b).ports = s.ports.set x { s.ports.get x with frameMisused := b } ∧
    (s.markFrame x b).exchange = s.exchange ∧
    (s.markFrame x b).chains = s.chains ∧
    (s.markFrame x b).intake = s.intake ∧
    (s.markFrame x b).qual = s.qual ∧
    (s.markFrame x b).episodes = s.episodes ∧
    (s.markFrame x b).snaps = s.snaps ∧
    (s.markFrame x b).rides = s.rides ∧
    (s.markFrame x b).archive = s.archive ∧
    (s.markFrame x b).supply = s.supply ∧
    (s.markFrame x b).startUp = s.startUp ∧
    (s.markFrame x b).draws = s.draws :=
  ⟨rfl, rfl, rfl, rfl, rfl, rfl, rfl, rfl, rfl, rfl, rfl, rfl, rfl⟩

@[simp] theorem State.withChains_fields (s : State) (x : Side) (c : Chains) :
    (s.withChains x c).pending = s.pending ∧
    (s.withChains x c).ports = s.ports ∧
    (s.withChains x c).exchange = s.exchange ∧
    (s.withChains x c).chains = { s.chains with sides := s.chains.sides.set x c } ∧
    (s.withChains x c).intake = s.intake ∧
    (s.withChains x c).qual = s.qual ∧
    (s.withChains x c).episodes = s.episodes ∧
    (s.withChains x c).snaps = s.snaps ∧
    (s.withChains x c).rides = s.rides ∧
    (s.withChains x c).archive = s.archive ∧
    (s.withChains x c).supply = s.supply ∧
    (s.withChains x c).startUp = s.startUp ∧
    (s.withChains x c).draws = s.draws :=
  ⟨rfl, rfl, rfl, rfl, rfl, rfl, rfl, rfl, rfl, rfl, rfl, rfl, rfl⟩

@[simp] theorem State.moveToInbound_fields (s : State) (x : Side) (slip : Word) :
    (s.moveToInbound x slip).pending = s.pending ∧
    (s.moveToInbound x slip).ports = s.ports ∧
    (s.moveToInbound x slip).exchange = s.exchange ∧
    (s.moveToInbound x slip).chains = { s.chains with
      sides := s.chains.sides.set x
        { s.chainsOf x with owner := s.ownersWith x slip .inbound, inbound := (s.chainsOf x).inbound ++ [slip] } } ∧
    (s.moveToInbound x slip).intake = s.intake ∧
    (s.moveToInbound x slip).qual = s.qual ∧
    (s.moveToInbound x slip).episodes = s.episodes ∧
    (s.moveToInbound x slip).snaps = s.snaps ∧
    (s.moveToInbound x slip).rides = s.rides ∧
    (s.moveToInbound x slip).archive = s.archive ∧
    (s.moveToInbound x slip).supply = s.supply ∧
    (s.moveToInbound x slip).startUp = s.startUp ∧
    (s.moveToInbound x slip).draws = s.draws :=
  ⟨rfl, rfl, rfl, rfl, rfl, rfl, rfl, rfl, rfl, rfl, rfl, rfl, rfl⟩

@[simp] theorem State.moveToFree_fields (s : State) (x : Side) (slip : Word) :
    (s.moveToFree x slip).pending = s.pending ∧
    (s.moveToFree x slip).ports = s.ports ∧
    (s.moveToFree x slip).exchange = s.exchange ∧
    (s.moveToFree x slip).chains = { s.chains with
      sides := s.chains.sides.set x
        { s.chainsOf x with owner := s.ownersWith x slip .free, free := (s.chainsOf x).free ++ [slip] } } ∧
    (s.moveToFree x slip).intake = s.intake ∧
    (s.moveToFree x slip).qual = s.qual ∧
    (s.moveToFree x slip).episodes = s.episodes ∧
    (s.moveToFree x slip).snaps = s.snaps ∧
    (s.moveToFree x slip).rides = s.rides ∧
    (s.moveToFree x slip).archive = s.archive ∧
    (s.moveToFree x slip).supply = s.supply ∧
    (s.moveToFree x slip).startUp = s.startUp ∧
    (s.moveToFree x slip).draws = s.draws :=
  ⟨rfl, rfl, rfl, rfl, rfl, rfl, rfl, rfl, rfl, rfl, rfl, rfl, rfl⟩

@[simp] theorem State.moveToWork_fields (s : State) (x : Side) (slip : Word) :
    (s.moveToWork x slip).pending = s.pending ∧
    (s.moveToWork x slip).ports = s.ports ∧
    (s.moveToWork x slip).exchange = s.exchange ∧
    (s.moveToWork x slip).chains = { s.chains with
      sides := s.chains.sides.set x
        { s.chainsOf x with owner := s.ownersWith x slip .inWork, inbound := (s.chainsOf x).inbound.tail } } ∧
    (s.moveToWork x slip).intake = { s.intake with pointer := x.other } ∧
    (s.moveToWork x slip).qual = s.qual ∧
    (s.moveToWork x slip).episodes = s.episodes ∧
    (s.moveToWork x slip).snaps = s.snaps ∧
    (s.moveToWork x slip).rides = s.rides ∧
    (s.moveToWork x slip).archive = s.archive ∧
    (s.moveToWork x slip).supply = s.supply ∧
    (s.moveToWork x slip).startUp = s.startUp ∧
    (s.moveToWork x slip).draws = s.draws :=
  ⟨rfl, rfl, rfl, rfl, rfl, rfl, rfl, rfl, rfl, rfl, rfl, rfl, rfl⟩

@[simp] theorem State.takeReturn_fields (s : State) (x : Side) (slip : Word) (rest : List Word) :
    (s.takeReturn x slip rest).pending = s.pending ∧
    (s.takeReturn x slip rest).ports = s.ports.set x { s.ports.get x with readData := slip } ∧
    (s.takeReturn x slip rest).exchange = s.exchange ∧
    (s.takeReturn x slip rest).chains = { s.chains with
      sides := s.chains.sides.set x
        { s.chainsOf x with owner := s.ownersWith x slip .held, ret := rest } } ∧
    (s.takeReturn x slip rest).intake = s.intake ∧
    (s.takeReturn x slip rest).qual = s.qual ∧
    (s.takeReturn x slip rest).episodes = s.episodes ∧
    (s.takeReturn x slip rest).snaps = s.snaps ∧
    (s.takeReturn x slip rest).rides = s.rides ∧
    (s.takeReturn x slip rest).archive = s.archive ∧
    (s.takeReturn x slip rest).supply = s.supply ∧
    (s.takeReturn x slip rest).startUp = s.startUp ∧
    (s.takeReturn x slip rest).draws = s.draws :=
  ⟨rfl, rfl, rfl, rfl, rfl, rfl, rfl, rfl, rfl, rfl, rfl, rfl, rfl⟩

@[simp] theorem State.setMonitor_fields (s : State) (m : MonitorId) (v : Monitor) :
    (s.setMonitor m v).pending = s.pending ∧
    (s.setMonitor m v).ports = s.ports ∧
    (s.setMonitor m v).exchange = s.exchange ∧
    (s.setMonitor m v).chains = s.chains ∧
    (s.setMonitor m v).intake = s.intake ∧
    (s.setMonitor m v).qual = { s.qual with monitors := s.qual.monitors.set m v } ∧
    (s.setMonitor m v).episodes = s.episodes ∧
    (s.setMonitor m v).snaps = s.snaps ∧
    (s.setMonitor m v).rides = s.rides ∧
    (s.setMonitor m v).archive = s.archive ∧
    (s.setMonitor m v).supply = s.supply ∧
    (s.setMonitor m v).startUp = s.startUp ∧
    (s.setMonitor m v).draws = s.draws :=
  ⟨rfl, rfl, rfl, rfl, rfl, rfl, rfl, rfl, rfl, rfl, rfl, rfl, rfl⟩

@[simp] theorem State.mapMonitors_fields (s : State) (f : Monitor → Monitor) :
    (s.mapMonitors f).pending = s.pending ∧
    (s.mapMonitors f).ports = s.ports ∧
    (s.mapMonitors f).exchange = s.exchange ∧
    (s.mapMonitors f).chains = s.chains ∧
    (s.mapMonitors f).intake = s.intake ∧
    (s.mapMonitors f).qual = { s.qual with monitors := s.qual.monitors.map f } ∧
    (s.mapMonitors f).episodes = s.episodes ∧
    (s.mapMonitors f).snaps = s.snaps ∧
    (s.mapMonitors f).rides = s.rides ∧
    (s.mapMonitors f).archive = s.archive ∧
    (s.mapMonitors f).supply = s.supply ∧
    (s.mapMonitors f).startUp = s.startUp ∧
    (s.mapMonitors f).draws = s.draws :=
  ⟨rfl, rfl, rfl, rfl, rfl, rfl, rfl, rfl, rfl, rfl, rfl, rfl, rfl⟩

@[simp] theorem State.markUntracked_fields (s : State) (m : MonitorId) :
    (s.markUntracked m).pending = s.pending ∧
    (s.markUntracked m).ports = s.ports ∧
    (s.markUntracked m).exchange = s.exchange ∧
    (s.markUntracked m).chains = s.chains ∧
    (s.markUntracked m).intake = s.intake ∧
    (s.markUntracked m).qual = { s.qual with
      monitors := s.qual.monitors.set m { s.monitor m with untracked := true } } ∧
    (s.markUntracked m).episodes = s.episodes ∧
    (s.markUntracked m).snaps = s.snaps ∧
    (s.markUntracked m).rides = s.rides ∧
    (s.markUntracked m).archive = s.archive ∧
    (s.markUntracked m).supply = s.supply ∧
    (s.markUntracked m).startUp = s.startUp ∧
    (s.markUntracked m).draws = s.draws :=
  ⟨rfl, rfl, rfl, rfl, rfl, rfl, rfl, rfl, rfl, rfl, rfl, rfl, rfl⟩

@[simp] theorem State.ignoreVerdict_fields (s : State) (m : MonitorId) :
    (s.ignoreVerdict m).pending = s.pending ∧
    (s.ignoreVerdict m).ports = s.ports ∧
    (s.ignoreVerdict m).exchange = s.exchange ∧
    (s.ignoreVerdict m).chains = s.chains ∧
    (s.ignoreVerdict m).intake = s.intake ∧
    (s.ignoreVerdict m).qual = { s.qual with
      ignored := s.qual.ignored.set (MonitorId.side m) (satInc (s.qual.ignored.get (MonitorId.side m))) } ∧
    (s.ignoreVerdict m).episodes = s.episodes ∧
    (s.ignoreVerdict m).snaps = s.snaps ∧
    (s.ignoreVerdict m).rides = s.rides ∧
    (s.ignoreVerdict m).archive = s.archive ∧
    (s.ignoreVerdict m).supply = s.supply ∧
    (s.ignoreVerdict m).startUp = s.startUp ∧
    (s.ignoreVerdict m).draws = s.draws :=
  ⟨rfl, rfl, rfl, rfl, rfl, rfl, rfl, rfl, rfl, rfl, rfl, rfl, rfl⟩

@[simp] theorem State.withArchive_fields (s : State) (a : Archive) :
    (s.withArchive a).pending = s.pending ∧
    (s.withArchive a).ports = s.ports ∧
    (s.withArchive a).exchange = s.exchange ∧
    (s.withArchive a).chains = s.chains ∧
    (s.withArchive a).intake = s.intake ∧
    (s.withArchive a).qual = s.qual ∧
    (s.withArchive a).episodes = s.episodes ∧
    (s.withArchive a).snaps = s.snaps ∧
    (s.withArchive a).rides = s.rides ∧
    (s.withArchive a).archive = a ∧
    (s.withArchive a).supply = s.supply ∧
    (s.withArchive a).startUp = s.startUp ∧
    (s.withArchive a).draws = s.draws :=
  ⟨rfl, rfl, rfl, rfl, rfl, rfl, rfl, rfl, rfl, rfl, rfl, rfl, rfl⟩

@[simp] theorem State.unpin_fields (s : State) (n : Nat) :
    (s.unpin n).pending = s.pending ∧
    (s.unpin n).ports = s.ports ∧
    (s.unpin n).exchange = s.exchange ∧
    (s.unpin n).chains = s.chains ∧
    (s.unpin n).intake = s.intake ∧
    (s.unpin n).qual = s.qual ∧
    (s.unpin n).episodes = s.episodes ∧
    (s.unpin n).snaps = s.snaps ∧
    (s.unpin n).rides = s.rides ∧
    (s.unpin n).archive = { s.archive with pinnedBytes := s.archive.pinnedBytes - n } ∧
    (s.unpin n).supply = s.supply ∧
    (s.unpin n).startUp = s.startUp ∧
    (s.unpin n).draws = s.draws :=
  ⟨rfl, rfl, rfl, rfl, rfl, rfl, rfl, rfl, rfl, rfl, rfl, rfl, rfl⟩

@[simp] theorem State.dropJobs_fields (s : State) :
    (s.dropJobs).pending = s.pending ∧
    (s.dropJobs).ports = s.ports ∧
    (s.dropJobs).exchange = s.exchange ∧
    (s.dropJobs).chains = s.chains ∧
    (s.dropJobs).intake = s.intake ∧
    (s.dropJobs).qual = s.qual ∧
    (s.dropJobs).episodes = s.episodes ∧
    (s.dropJobs).snaps = s.snaps ∧
    (s.dropJobs).rides = s.rides ∧
    (s.dropJobs).archive = { s.archive with jobs := .both none } ∧
    (s.dropJobs).supply = s.supply ∧
    (s.dropJobs).startUp = s.startUp ∧
    (s.dropJobs).draws = s.draws :=
  ⟨rfl, rfl, rfl, rfl, rfl, rfl, rfl, rfl, rfl, rfl, rfl, rfl, rfl⟩

@[simp] theorem State.setJob_fields (s : State) (x : Side) (j : Job) :
    (s.setJob x j).pending = s.pending ∧
    (s.setJob x j).ports = s.ports ∧
    (s.setJob x j).exchange = s.exchange ∧
    (s.setJob x j).chains = s.chains ∧
    (s.setJob x j).intake = s.intake ∧
    (s.setJob x j).qual = s.qual ∧
    (s.setJob x j).episodes = s.episodes ∧
    (s.setJob x j).snaps = s.snaps ∧
    (s.setJob x j).rides = s.rides ∧
    (s.setJob x j).archive = { s.archive with jobs := s.archive.jobs.set x (some j) } ∧
    (s.setJob x j).supply = s.supply ∧
    (s.setJob x j).startUp = s.startUp ∧
    (s.setJob x j).draws = s.draws :=
  ⟨rfl, rfl, rfl, rfl, rfl, rfl, rfl, rfl, rfl, rfl, rfl, rfl, rfl⟩

@[simp] theorem State.writeControlBlock_fields (s : State) (slip : Word) (block : List Byte) :
    (s.writeControlBlock slip block).pending = s.pending ∧
    (s.writeControlBlock slip block).ports = s.ports ∧
    (s.writeControlBlock slip block).exchange = s.exchange.writeBytes (slip.toNat + 32) block ∧
    (s.writeControlBlock slip block).chains = s.chains ∧
    (s.writeControlBlock slip block).intake = s.intake ∧
    (s.writeControlBlock slip block).qual = s.qual ∧
    (s.writeControlBlock slip block).episodes = s.episodes ∧
    (s.writeControlBlock slip block).snaps = s.snaps ∧
    (s.writeControlBlock slip block).rides = s.rides ∧
    (s.writeControlBlock slip block).archive = s.archive ∧
    (s.writeControlBlock slip block).supply = s.supply ∧
    (s.writeControlBlock slip block).startUp = s.startUp ∧
    (s.writeControlBlock slip block).draws = s.draws :=
  ⟨rfl, rfl, rfl, rfl, rfl, rfl, rfl, rfl, rfl, rfl, rfl, rfl, rfl⟩

@[simp] theorem State.beginWaiting_fields (s : State) (x : Side) (slip : Word) (k : WaitKind) :
    (s.beginWaiting x slip k).pending = s.pending ∧
    (s.beginWaiting x slip k).ports = s.ports ∧
    (s.beginWaiting x slip k).exchange = s.exchange ∧
    (s.beginWaiting x slip k).chains = s.chains ∧
    (s.beginWaiting x slip k).intake = { s.intake with
      waiting := s.intake.waiting ++ [{ side := x, slip := slip, kind := k, marker := none, summary := none }] } ∧
    (s.beginWaiting x slip k).qual = s.qual ∧
    (s.beginWaiting x slip k).episodes = s.episodes ∧
    (s.beginWaiting x slip k).snaps = s.snaps ∧
    (s.beginWaiting x slip k).rides = s.rides ∧
    (s.beginWaiting x slip k).archive = s.archive ∧
    (s.beginWaiting x slip k).supply = s.supply ∧
    (s.beginWaiting x slip k).startUp = s.startUp ∧
    (s.beginWaiting x slip k).draws = s.draws :=
  ⟨rfl, rfl, rfl, rfl, rfl, rfl, rfl, rfl, rfl, rfl, rfl, rfl, rfl⟩

@[simp] theorem State.stopTimers_fields (s : State) :
    (s.stopTimers).pending = s.pending ∧
    (s.stopTimers).ports = s.ports ∧
    (s.stopTimers).exchange = s.exchange ∧
    (s.stopTimers).chains = s.chains ∧
    (s.stopTimers).intake = s.intake ∧
    (s.stopTimers).qual = s.qual ∧
    (s.stopTimers).episodes = s.episodes ∧
    (s.stopTimers).snaps = s.snaps ∧
    (s.stopTimers).rides = { s.rides with silence := .both stoppedTimer } ∧
    (s.stopTimers).archive = s.archive ∧
    (s.stopTimers).supply = s.supply ∧
    (s.stopTimers).startUp = s.startUp ∧
    (s.stopTimers).draws = s.draws :=
  ⟨rfl, rfl, rfl, rfl, rfl, rfl, rfl, rfl, rfl, rfl, rfl, rfl, rfl⟩

@[simp] theorem State.park_fields (s : State) :
    (s.park).pending = s.pending ∧
    (s.park).ports = s.ports ∧
    (s.park).exchange = s.exchange ∧
    (s.park).chains = s.chains ∧
    (s.park).intake = s.intake ∧
    (s.park).qual = s.qual ∧
    (s.park).episodes = s.episodes ∧
    (s.park).snaps = s.snaps ∧
    (s.park).rides = { s.rides with state := .parked } ∧
    (s.park).archive = s.archive ∧
    (s.park).supply = s.supply ∧
    (s.park).startUp = s.startUp ∧
    (s.park).draws = s.draws :=
  ⟨rfl, rfl, rfl, rfl, rfl, rfl, rfl, rfl, rfl, rfl, rfl, rfl, rfl⟩

@[simp] theorem State.tickSettle_fields (s : State) :
    (s.tickSettle).pending = s.pending ∧
    (s.tickSettle).ports = s.ports ∧
    (s.tickSettle).exchange = s.exchange ∧
    (s.tickSettle).chains = s.chains ∧
    (s.tickSettle).intake = s.intake ∧
    (s.tickSettle).qual = s.qual ∧
    (s.tickSettle).episodes = s.episodes ∧
    (s.tickSettle).snaps = s.snaps ∧
    (s.tickSettle).rides = s.rides ∧
    (s.tickSettle).archive = s.archive ∧
    (s.tickSettle).supply = { s.supply with settle := s.supply.settle - 1 } ∧
    (s.tickSettle).startUp = s.startUp ∧
    (s.tickSettle).draws = s.draws :=
  ⟨rfl, rfl, rfl, rfl, rfl, rfl, rfl, rfl, rfl, rfl, rfl, rfl, rfl⟩

@[simp] theorem State.supplyLow_fields (s : State) :
    (s.supplyLow).pending = s.pending ∧
    (s.supplyLow).ports = s.ports ∧
    (s.supplyLow).exchange = s.exchange ∧
    (s.supplyLow).chains = s.chains ∧
    (s.supplyLow).intake = s.intake ∧
    (s.supplyLow).qual = s.qual ∧
    (s.supplyLow).episodes = s.episodes ∧
    (s.supplyLow).snaps = s.snaps ∧
    (s.supplyLow).rides = s.rides ∧
    (s.supplyLow).archive = s.archive ∧
    (s.supplyLow).supply = .reset ∧
    (s.supplyLow).startUp = s.startUp ∧
    (s.supplyLow).draws = s.draws :=
  ⟨rfl, rfl, rfl, rfl, rfl, rfl, rfl, rfl, rfl, rfl, rfl, rfl, rfl⟩

@[simp] theorem State.withHolds_fields (s : State) (r h c : Bool) :
    (s.withHolds r h c).pending = s.pending ∧
    (s.withHolds r h c).ports = s.ports ∧
    (s.withHolds r h c).exchange = s.exchange ∧
    (s.withHolds r h c).chains = s.chains ∧
    (s.withHolds r h c).intake = s.intake ∧
    (s.withHolds r h c).qual = s.qual ∧
    (s.withHolds r h c).episodes = s.episodes ∧
    (s.withHolds r h c).snaps = s.snaps ∧
    (s.withHolds r h c).rides = s.rides ∧
    (s.withHolds r h c).archive = s.archive ∧
    (s.withHolds r h c).supply = s.supply ∧
    (s.withHolds r h c).startUp = { s.startUp with resetLow := r, supplyHold := h, clearingCut := c } ∧
    (s.withHolds r h c).draws = s.draws :=
  ⟨rfl, rfl, rfl, rfl, rfl, rfl, rfl, rfl, rfl, rfl, rfl, rfl, rfl⟩

@[simp] theorem State.latchBoth_frame (s : State) (n : Notice) :
    (s.latchBoth n).pending = s.pending ∧
    (s.latchBoth n).exchange = s.exchange ∧
    (s.latchBoth n).chains = s.chains ∧
    (s.latchBoth n).intake = s.intake ∧
    (s.latchBoth n).qual = s.qual ∧
    (s.latchBoth n).episodes = s.episodes ∧
    (s.latchBoth n).snaps = s.snaps ∧
    (s.latchBoth n).rides = s.rides ∧
    (s.latchBoth n).archive = s.archive ∧
    (s.latchBoth n).supply = s.supply ∧
    (s.latchBoth n).startUp = s.startUp ∧
    (s.latchBoth n).draws = s.draws :=
  ⟨rfl, rfl, rfl, rfl, rfl, rfl, rfl, rfl, rfl, rfl, rfl, rfl⟩

@[simp] theorem State.countDrop_frame (s : State) :
    (s.countDrop).pending = s.pending ∧
    (s.countDrop).exchange = s.exchange ∧
    (s.countDrop).chains = s.chains ∧
    (s.countDrop).intake = s.intake ∧
    (s.countDrop).qual = s.qual ∧
    (s.countDrop).episodes = s.episodes ∧
    (s.countDrop).snaps = s.snaps ∧
    (s.countDrop).rides = s.rides ∧
    (s.countDrop).supply = s.supply ∧
    (s.countDrop).startUp = s.startUp ∧
    (s.countDrop).draws = s.draws :=
  ⟨rfl, rfl, rfl, rfl, rfl, rfl, rfl, rfl, rfl, rfl, rfl⟩

@[simp] theorem State.writeAnswer_frame (s : State) (slip : Word) (code : ResultCode) (detail progress : Word) :
    (s.writeAnswer slip code detail progress).pending = s.pending ∧
    (s.writeAnswer slip code detail progress).ports = s.ports ∧
    (s.writeAnswer slip code detail progress).chains = s.chains ∧
    (s.writeAnswer slip code detail progress).intake = s.intake ∧
    (s.writeAnswer slip code detail progress).qual = s.qual ∧
    (s.writeAnswer slip code detail progress).episodes = s.episodes ∧
    (s.writeAnswer slip code detail progress).snaps = s.snaps ∧
    (s.writeAnswer slip code detail progress).rides = s.rides ∧
    (s.writeAnswer slip code detail progress).archive = s.archive ∧
    (s.writeAnswer slip code detail progress).supply = s.supply ∧
    (s.writeAnswer slip code detail progress).startUp = s.startUp ∧
    (s.writeAnswer slip code detail progress).draws = s.draws :=
  ⟨rfl, rfl, rfl, rfl, rfl, rfl, rfl, rfl, rfl, rfl, rfl, rfl⟩

@[simp] theorem State.tickDevice_frame (s : State) :
    (s.tickDevice).pending = s.pending ∧
    (s.tickDevice).ports = s.ports ∧
    (s.tickDevice).exchange = s.exchange ∧
    (s.tickDevice).chains = s.chains ∧
    (s.tickDevice).intake = s.intake ∧
    (s.tickDevice).qual = s.qual ∧
    (s.tickDevice).episodes = s.episodes ∧
    (s.tickDevice).archive = s.archive ∧
    (s.tickDevice).supply = s.supply ∧
    (s.tickDevice).draws = s.draws :=
  ⟨rfl, rfl, rfl, rfl, rfl, rfl, rfl, rfl, rfl, rfl⟩

@[simp] theorem State.writeScanning_fields (s : State) :
    s.writeScanning.pending = s.pending ∧
    s.writeScanning.ports = s.ports ∧
    s.writeScanning.exchange = { s.exchange with status := { s.exchange.status with partState := PartState.code .scanning } } ∧
    s.writeScanning.chains = s.chains ∧
    s.writeScanning.intake = s.intake ∧
    s.writeScanning.qual = s.qual ∧
    s.writeScanning.episodes = s.episodes ∧
    s.writeScanning.snaps = s.snaps ∧
    s.writeScanning.rides = s.rides ∧
    s.writeScanning.archive = s.archive ∧
    s.writeScanning.supply = s.supply ∧
    s.writeScanning.startUp = s.startUp ∧
    s.writeScanning.draws = s.draws :=
  ⟨rfl, rfl, rfl, rfl, rfl, rfl, rfl, rfl, rfl, rfl, rfl, rfl, rfl⟩

@[simp] theorem State.resetBlocks_frame (s : State) (k : ResetKind) (array : Memory) :
    (s.resetBlocks k array).pending = s.pending ∧
    (s.resetBlocks k array).draws = s.draws :=
  ⟨rfl, rfl⟩

/-! ## The parts of a state that the rules speak of -/

@[simp] theorem State.chainsOf_withChains_self (s : State) (x : Side) (c : Chains) :
    (s.withChains x c).chainsOf x = c := by simp [State.chainsOf]

@[simp] theorem State.chainsOf_withChains_other (s : State) (x : Side) (c : Chains) :
    (s.withChains x c).chainsOf x.other = s.chainsOf x.other := by simp [State.chainsOf]

@[simp] theorem State.monitor_setMonitor_self (s : State) (m : MonitorId) (v : Monitor) :
    (s.setMonitor m v).monitor m = v := by simp [State.monitor]

theorem State.monitor_setMonitor_ne (s : State) {m n : MonitorId} (h : n ≠ m) (v : Monitor) :
    (s.setMonitor m v).monitor n = s.monitor n := by simp [State.monitor, Table.get_set_ne _ h]

@[simp] theorem State.monitor_mapMonitors (s : State) (f : Monitor → Monitor) (m : MonitorId) :
    (s.mapMonitors f).monitor m = f (s.monitor m) := by simp [State.monitor]

/-! ## The status area -/

/-- What `showStatus` leaves: everything but the status area (R84). -/
theorem State.showStatus_cases (s : State) :
    (s.startUp.phase = .running ∧
      s.showStatus = { s with exchange := { s.exchange with status := s.currentStatus } }) ∨
    (s.startUp.phase ≠ .running ∧ s.showStatus = s) := by
  unfold State.showStatus
  split
  · exact .inl ⟨‹_›, rfl⟩
  · exact .inr ⟨‹_›, rfl⟩

@[simp] theorem State.showStatus_frame (s : State) :
    s.showStatus.pending = s.pending ∧ s.showStatus.ports = s.ports ∧ s.showStatus.chains = s.chains ∧
    s.showStatus.intake = s.intake ∧ s.showStatus.qual = s.qual ∧ s.showStatus.episodes = s.episodes ∧
    s.showStatus.snaps = s.snaps ∧ s.showStatus.rides = s.rides ∧ s.showStatus.archive = s.archive ∧
    s.showStatus.supply = s.supply ∧ s.showStatus.startUp = s.startUp ∧ s.showStatus.draws = s.draws ∧
    s.showStatus.exchange.cells = s.exchange.cells ∧ s.showStatus.exchange.layout = s.exchange.layout := by
  rcases s.showStatus_cases with ⟨_, h⟩ | ⟨_, h⟩ <;> simp [h]

/-- While the device runs, the status area shows its owners' values (R84). -/
theorem State.showStatus_status (s : State) (h : s.startUp.phase = .running) :
    s.showStatus.exchange.status = s.currentStatus := by simp [State.showStatus, h]

/-- Showing a status area that is shown changes nothing. -/
theorem State.showStatus_eq_self (s : State) (h : s.exchange.status = s.currentStatus) : s.showStatus = s := by
  unfold State.showStatus
  split
  · rw [← h]
  · rfl

end Sys2Proof.Machine
end

