-- ==== Sys2Proof/Laws/Frames.lean ====
section
/-! SUPPORT. What the shared operations can do, said once for each: `Kept s t` lists what no offer, fate, answer or
verdict touches, and the invariants that all of them keep. -/

namespace Sys2Proof.Machine

/-- What the operations below a verdict keep between `s` and `t`. -/
structure Kept (s t : State) : Prop where
  pending : t.pending = s.pending
  rides : t.rides = s.rides
  supply : t.supply = s.supply
  startUp : t.startUp = s.startUp
  ring : t.snaps.ring = s.snaps.ring
  pointer : t.intake.pointer = s.intake.pointer
  layout : t.exchange.layout = s.exchange.layout
  status : t.exchange.status = s.exchange.status
  misuse : t.chains.misuse = s.chains.misuse
  free : ∀ x, (t.chainsOf x).free = (s.chainsOf x).free
  inbound : ∀ x, (t.chainsOf x).inbound = (s.chainsOf x).inbound
  mask : ∀ x, (t.ports.get x).mask = (s.ports.get x).mask
  readData : ∀ x, (t.ports.get x).readData = (s.ports.get x).readData
  readFrame : ∀ x, (t.ports.get x).readFrame = (s.ports.get x).readFrame
  frameMisused : ∀ x, (t.ports.get x).frameMisused = (s.ports.get x).frameMisused
  latched : ∀ x n, (s.ports.get x).isLatched n = true → (t.ports.get x).isLatched n = true
  array : t.archive.array = s.archive.array
  segments : t.archive.segments = s.archive.segments
  head : t.archive.head = s.archive.head
  segmentCounter : t.archive.segmentCounter = s.archive.segmentCounter
  disregarded : t.archive.disregarded = s.archive.disregarded
  stopUnitMissing : t.archive.stopUnitMissing = s.archive.stopUnitMissing
  work : t.archive.work = s.archive.work
  draws : t.draws = s.draws
  memory : s.MemoryInv → t.MemoryInv
  returnReady : s.ReturnReadyInv → t.ReturnReadyInv
  places : s.archive.queue.length ≤ Config.queuePlaces → t.archive.queue.length ≤ Config.queuePlaces
  common : s.archive.commonQueued ≤ Config.commonPlaces → t.archive.commonQueued ≤ Config.commonPlaces
  stays : s.archive.state = .stopped → t.archive.state = .stopped
  fails : (s.archive.storeFails ≠ [] → s.archive.state = .stopped) →
    t.archive.storeFails ≠ [] → t.archive.state = .stopped

theorem Kept.refl (s : State) : Kept s s := by
  constructor <;> simp

theorem Kept.trans {s t u : State} (h : Kept s t) (k : Kept t u) : Kept s u where
  pending := k.pending.trans h.pending
  rides := k.rides.trans h.rides
  supply := k.supply.trans h.supply
  startUp := k.startUp.trans h.startUp
  ring := k.ring.trans h.ring
  pointer := k.pointer.trans h.pointer
  layout := k.layout.trans h.layout
  status := k.status.trans h.status
  misuse := k.misuse.trans h.misuse
  free x := (k.free x).trans (h.free x)
  inbound x := (k.inbound x).trans (h.inbound x)
  mask x := (k.mask x).trans (h.mask x)
  readData x := (k.readData x).trans (h.readData x)
  readFrame x := (k.readFrame x).trans (h.readFrame x)
  frameMisused x := (k.frameMisused x).trans (h.frameMisused x)
  latched x n l := k.latched x n (h.latched x n l)
  array := k.array.trans h.array
  segments := k.segments.trans h.segments
  head := k.head.trans h.head
  segmentCounter := k.segmentCounter.trans h.segmentCounter
  disregarded := k.disregarded.trans h.disregarded
  stopUnitMissing := k.stopUnitMissing.trans h.stopUnitMissing
  work := k.work.trans h.work
  draws := k.draws.trans h.draws
  memory m := k.memory (h.memory m)
  returnReady r := k.returnReady (h.returnReady r)
  places p := k.places (h.places p)
  common c := k.common (h.common c)
  stays p := k.stays (h.stays p)
  fails f := k.fails (h.fails f)

theorem Kept.ite {c : Prop} [Decidable c] {s t u : State} (h : Kept s t) (k : Kept s u) :
    Kept s (if c then t else u) := by split <;> assumption

/-- A fold of kept steps is kept. -/
theorem Kept.foldl {α : Type} {f : State → α → State} (hf : ∀ s a, Kept s (f s a)) :
    ∀ (l : List α) (s : State), Kept s (l.foldl f s)
  | [], s => .refl s
  | a :: rest, s => (hf s a).trans (Kept.foldl hf rest (f s a))

/-! ## Plain updates -/

/-- A change of the monitors, the episodes, the slots or the waiting slips alone. -/
theorem Kept.of_blocks {s t : State} (pending : t.pending = s.pending) (ports : t.ports = s.ports)
    (exchange : t.exchange = s.exchange) (chains : t.chains = s.chains)
    (pointer : t.intake.pointer = s.intake.pointer) (ring : t.snaps.ring = s.snaps.ring)
    (rides : t.rides = s.rides) (archive : t.archive = s.archive) (supply : t.supply = s.supply)
    (startUp : t.startUp = s.startUp) (draws : t.draws = s.draws) : Kept s t := by
  constructor <;> simp_all [State.chainsOf, State.MemoryInv, State.ReturnReadyInv]
  exact fun _ h _ => h

theorem Port.isLatched_latch (p : Port) (n k : Notice) (h : p.isLatched k = true) :
    (p.latch n).isLatched k = true := by
  simp only [Port.isLatched, Port.latch] at *
  revert h
  generalize p.flags = f
  intro h
  cases n <;> cases k <;> simp only [Notice.bit] at * <;> revert f <;> decide

/-- A latched flag is latched. -/
theorem Port.isLatched_latch_self (p : Port) (n : Notice) : (p.latch n).isLatched n = true := by
  simp only [Port.isLatched, Port.latch]
  generalize p.flags = f
  cases n <;> simp only [Notice.bit] <;> revert f <;> decide

theorem State.latch_kept (s : State) (y : Side) (n : Notice) : Kept s (s.latch y n) := by
  constructor <;> try simp [State.chainsOf, State.MemoryInv]
  all_goals
    first
    | (intro x k h
       rcases Side.eq_or_other y x with rfl | rfl
       · simpa using Port.isLatched_latch _ n k h
       · simpa using h)
    | (intro h x hx
       rcases Side.eq_or_other y x with rfl | rfl
       · simpa using Port.isLatched_latch _ n _ (h _ hx)
       · simpa using h _ hx)
    | (intro x
       rcases Side.eq_or_other y x with rfl | rfl <;> simp [Port.latch])

theorem State.latchBoth_kept (s : State) (n : Notice) : Kept s (s.latchBoth n) :=
  (s.latch_kept _ n).trans (State.latch_kept _ _ n)

/-- A change of the counters and the pins of the archive unit alone. -/
theorem State.withArchive_kept (s : State) (a : Archive) (array : a.array = s.archive.array)
    (segments : a.segments = s.archive.segments) (head : a.head = s.archive.head)
    (segmentCounter : a.segmentCounter = s.archive.segmentCounter)
    (disregarded : a.disregarded = s.archive.disregarded)
    (stopUnitMissing : a.stopUnitMissing = s.archive.stopUnitMissing) (work : a.work = s.archive.work)
    (queue : a.queue = s.archive.queue) (state : a.state = s.archive.state)
    (storeFails : a.storeFails = s.archive.storeFails) : Kept s (s.withArchive a) := by
  constructor <;> simp_all [State.chainsOf, State.MemoryInv, State.ReturnReadyInv, Archive.commonQueued]
  exact fun _ h _ => h

theorem State.countDrop_kept (s : State) : Kept s s.countDrop :=
  (s.withArchive_kept { s.archive with recordsDropped := satInc s.archive.recordsDropped }
    rfl rfl rfl rfl rfl rfl rfl rfl rfl rfl).trans (State.latchBoth_kept _ _)

theorem State.unpin_kept (s : State) (n : Nat) : Kept s (s.unpin n) :=
  s.withArchive_kept _ rfl rfl rfl rfl rfl rfl rfl rfl rfl rfl

/-! ## Exchange memory -/

theorem Memory.mem_put {m : Memory} {a : Nat} {b : Byte} {c : Host.Cell} (h : c ∈ m.put a b) : c = (a, b) ∨ c ∈ m := by
  induction m with
  | nil =>
    simp only [Memory.put] at h
    split at h <;> simp_all
  | cons d rest ih =>
    simp only [Memory.put] at h
    split at h
    · split at h <;> simp_all
    · split at h
      · split at h
        · exact .inr (.tail _ h)
        · rcases List.mem_cons.mp h with h | h
          · exact .inl h
          · exact .inr (.tail _ h)
      · simp only [List.mem_cons] at h ⊢
        rcases h with h | h
        · exact .inr (.inl h)
        · rcases ih h with h | h
          · exact .inl h
          · exact .inr (.inr h)

/-- Nothing is listed in the status area after bytes have been written. -/
theorem Exchange.writeBytes_clear : ∀ (bytes : List Byte) (x : Exchange) (a : Nat),
    x.cells.all (fun c => !inStatusArea c.1) = true →
      (x.writeBytes a bytes).cells.all (fun c => !inStatusArea c.1) = true
  | [], _, _, h => h
  | b :: rest, x, a, h => by
    refine Exchange.writeBytes_clear rest _ _ ?_
    unfold Exchange.writeByte
    split
    · exact h
    · rename_i ha
      simp only [List.all_eq_true] at h ⊢
      intro c hc
      simp only [Memory.write] at hc
      split at hc
      · rcases Memory.mem_put hc with rfl | hc
        · simpa using ha
        · exact h c hc
      · exact h c hc

/-- A change of exchange memory's bytes by a write of the device. -/
theorem Kept.of_exchange {s t : State} (e : t = { s with exchange := t.exchange })
    (layout : t.exchange.layout = s.exchange.layout) (status : t.exchange.status = s.exchange.status)
    (wf : s.exchange.cells.wf Config.exchangeBytes = true → t.exchange.cells.wf Config.exchangeBytes = true)
    (clear : s.exchange.cells.all (fun c => !inStatusArea c.1) = true →
      t.exchange.cells.all (fun c => !inStatusArea c.1) = true) : Kept s t := by
  rw [e]
  constructor <;> first
    | exact layout
    | exact status
    | exact fun m => ⟨wf m.1, clear m.2.1, m.2.2⟩
    | simp [State.chainsOf, State.ReturnReadyInv]

theorem State.writeControlBlock_kept (s : State) (slip : Word) (block : List Byte) :
    Kept s (s.writeControlBlock slip block) :=
  .of_exchange rfl (Exchange.writeBytes_layout _ _ _) (Exchange.writeBytes_status _ _ _)
    (Exchange.writeBytes_wf _ _ _) (Exchange.writeBytes_clear _ _ _)

theorem State.writeAnswer_kept (s : State) (slip : Word) (code : ResultCode) (detail progress : Word) :
    Kept s (s.writeAnswer slip code detail progress) := by
  refine .of_exchange rfl ?_ ?_ ?_ ?_
  · simp only [State.writeAnswer, Exchange.writeWord_layout]
  · simp only [State.writeAnswer, Exchange.writeWord_status]
  · intro h
    exact Exchange.writeWord_wf _ _ (Exchange.writeWord_wf _ _ (Exchange.writeWord_wf _ _ (Exchange.writeWord_wf _ _ h)))
  · intro h
    exact Exchange.writeBytes_clear _ _ _ (Exchange.writeBytes_clear _ _ _
      (Exchange.writeBytes_clear _ _ _ (Exchange.writeBytes_clear _ _ _ h)))

/-! ## Slips -/

theorem State.moveToReturn_kept (s : State) (y : Side) (slip : Word) : Kept s (s.moveToReturn y slip) := by
  unfold State.moveToReturn
  split
  · constructor <;> try simp [State.chainsOf, State.MemoryInv]
    all_goals
      first
      | (intro x k h
         rcases Side.eq_or_other y x with rfl | rfl
         · simpa using Port.isLatched_latch _ _ k h
         · simpa using h)
      | (intro h x hx
         rcases Side.eq_or_other y x with rfl | rfl
         · simpa using Port.isLatched_latch_self _ _
         · simpa using h _ (by simpa [State.chainsOf] using hx))
      | (intro x
         rcases Side.eq_or_other y x with rfl | rfl <;> simp [Port.latch])
  · rename_i hne
    constructor <;> try simp [State.chainsOf, State.MemoryInv]
    all_goals
      first
      | (intro h x hx
         rcases Side.eq_or_other y x with rfl | rfl
         · exact h _ (by simpa using hne)
         · exact h _ (by simpa [State.chainsOf] using hx))
      | (intro x
         rcases Side.eq_or_other y x with rfl | rfl <;> simp)

theorem State.answer_kept (s : State) (x : Side) (slip : Word) (code : ResultCode) (detail progress : Word) :
    Kept s (s.answer x slip code detail progress) :=
  (s.writeAnswer_kept slip code detail progress).trans (State.moveToReturn_kept _ _ _)

theorem State.settleWaiting_kept (s : State) (w : Waiting) : Kept s (s.settleWaiting w) := by
  unfold State.settleWaiting
  split
  · exact .refl s
  · refine Kept.trans ?_ (State.answer_kept _ _ _ _ _ _)
    exact .of_blocks rfl rfl rfl rfl rfl rfl rfl rfl rfl rfl rfl

theorem State.reportFate_kept (s : State) (kind : RecordKind) (slip : Option (Side × Word)) (f : Fate) :
    Kept s (s.reportFate kind slip f) := by
  unfold State.reportFate
  split
  · exact .refl s
  · dsimp only
    split
    · exact .of_blocks rfl rfl rfl rfl rfl rfl rfl rfl rfl rfl rfl
    · refine Kept.trans ?_ (State.settleWaiting_kept _ _)
      exact .of_blocks rfl rfl rfl rfl rfl rfl rfl rfl rfl rfl rfl

theorem State.freeSlot_kept (s : State) (i : Fin 8) : Kept s (s.freeSlot i) := by
  unfold State.freeSlot
  split
  · exact .refl s
  · exact .of_blocks rfl rfl rfl rfl rfl rfl rfl rfl rfl rfl rfl

theorem State.tellFate_kept (s : State) (d : Descriptor) (f : Fate) : Kept s (s.tellFate d f) := by
  unfold State.tellFate
  split
  · exact s.freeSlot_kept _
  all_goals exact s.reportFate_kept _ _ _

theorem State.giveUp_kept (s : State) (d : Descriptor) : Kept s (s.giveUp d) := by
  refine Kept.trans ?_ (State.tellFate_kept _ _ _)
  unfold State.countGiveUp
  split
  · exact (s.unpin_kept _).trans (State.countDrop_kept _)
  · exact s.countDrop_kept

/-! ## Read jobs and the archive stop -/

theorem State.endJob_kept (s : State) (x : Side) (j : Job) (code : ResultCode) (q : DWord) (offset : Nat) :
    Kept s (s.endJob x j code q offset) :=
  ((s.writeControlBlock_kept _ _).trans
    (State.withArchive_kept _ { (s.writeControlBlock j.slip _).archive with
      jobs := (s.writeControlBlock j.slip _).archive.jobs.set x none }
      rfl rfl rfl rfl rfl rfl rfl rfl rfl rfl)).trans (State.answer_kept _ _ _ _ _ _)

theorem State.abortJob_kept (s : State) (x : Side) : Kept s (s.abortJob x) := by
  unfold State.abortJob
  split
  · exact .refl s
  · exact s.endJob_kept _ _ _ _ _

theorem State.archiveStop_kept (s : State) (byWorn : Bool) : Kept s (s.archiveStop byWorn) := by
  unfold State.archiveStop
  refine Kept.trans (Kept.trans (Kept.trans (Kept.trans ?_ (Kept.foldl State.giveUp_kept _ _))
    (State.latchBoth_kept _ _)) (State.abortJob_kept _ _)) (State.abortJob_kept _ _)
  constructor <;> simp [State.chainsOf, State.MemoryInv, State.ReturnReadyInv, Archive.commonQueued]

/-! ## Offers -/

theorem State.accept_kept (s : State) (r : Record) (w : Option (Side × Word)) (h : s.archive.accepts r = true) :
    Kept s (s.accept r w) := by
  have hp : s.archive.hasPlace r.body.kind = true := by
    simp only [Archive.accepts, Bool.and_eq_true] at h; exact h.1.2
  simp only [Archive.hasPlace, Bool.and_eq_true, Bool.or_eq_true, decide_eq_true_eq] at hp
  unfold State.accept
  dsimp only
  have key : ∀ (q : Nat) (g : DWord) (b : Nat) (o : Word) (d : Descriptor), d.record = r →
      Kept s { s with archive := { s.archive with
        sequenceCounter := q, pinGeneration := g, pinnedBytes := b, retentionOverflows := o,
        queue := s.archive.queue ++ [d] } } := by
    intro q g b o d hd
    constructor <;> try simp [State.chainsOf, State.MemoryInv, State.ReturnReadyInv]
    · intro _; omega
    · intro hc
      simp only [Archive.commonQueued, List.filter_append, List.length_append]
      by_cases hr : r.body.kind.reserved = true
      · simp [hd, hr]; exact hc
      · simp only [Bool.not_eq_true] at hr
        have hl := hp.2.resolve_left (by simp [hr])
        simp [hd, hr]
        simp only [Archive.commonQueued] at hl
        omega
  exact Kept.ite (Kept.trans (key _ _ _ _ _ rfl) (State.latchBoth_kept _ _)) (key _ _ _ _ _ rfl)

theorem State.stopIfExhausted_kept (s : State) : Kept s s.stopIfExhausted := by
  unfold State.stopIfExhausted
  split
  · exact s.archiveStop_kept false
  · exact .refl s

theorem State.offer_kept (s : State) (r : Record) (w : Option (Side × Word)) : Kept s (s.offer r w).1 := by
  unfold State.offer
  dsimp only
  split
  · exact s.stopIfExhausted_kept.trans (State.accept_kept _ _ _ ‹_›)
  · exact s.stopIfExhausted_kept.trans (State.countDrop_kept _)

theorem State.offerClose_kept (s : State) (r : Record) : Kept s (s.offerClose r) := s.offer_kept r none

theorem State.offerFor_kept (s : State) (r : Record) (x : Side) (slip : Word) : Kept s (s.offerFor r x slip) := by
  unfold State.offerFor
  have h := s.offer_kept r (some (x, slip))
  split
  · rename_i s' e; rw [e] at h; exact h
  · rename_i s' e; rw [e] at h; exact h.trans (State.reportFate_kept _ _ _ _)

/-! ## Captures -/

theorem State.settleSlot_kept (s : State) (b : Bool) (i : Fin 8) (c : Capture) : Kept s (s.settleSlot b i c) := by
  unfold State.settleSlot
  split
  · exact .of_blocks rfl rfl rfl rfl rfl rfl rfl rfl rfl rfl rfl
  · exact s.freeSlot_kept i

theorem State.endCapture_kept (s : State) (i : Fin 8) (c : EndCause) : Kept s (s.endCapture i c) := by
  unfold State.endCapture
  split
  · exact .refl s
  · split
    · refine Kept.trans ?_ (State.settleSlot_kept _ _ _ _)
      refine Kept.trans ?_ (State.offer_kept _ _ _)
      exact .of_blocks rfl rfl rfl rfl rfl rfl rfl rfl rfl rfl rfl
    · exact .refl s

theorem State.endCaptures_kept (s : State) (c : EndCause) : Kept s (s.endCaptures c) :=
  Kept.foldl (fun s i => s.endCapture_kept i c) _ s

theorem State.beginCapture_kept (s : State) (i : Fin 8) (c : Capture) : Kept s (s.beginCapture i c) := by
  unfold State.beginCapture
  dsimp only
  split
  · refine Kept.trans ?_ (State.endCapture_kept _ _ _)
    exact .of_blocks rfl rfl rfl rfl rfl rfl rfl rfl rfl rfl rfl
  · exact .of_blocks rfl rfl rfl rfl rfl rfl rfl rfl rfl rfl rfl

theorem State.requestCapture_kept (s : State) (k : Fin 24) (e : Episode) (pre post : Nat) :
    Kept s (s.requestCapture k e pre post) := by
  unfold State.requestCapture
  split
  · exact .refl s
  · split
    · exact .of_blocks rfl rfl rfl rfl rfl rfl rfl rfl rfl rfl rfl
    · refine Kept.trans ?_ (State.beginCapture_kept _ _ _)
      exact .of_blocks rfl rfl rfl rfl rfl rfl rfl rfl rfl rfl rfl

theorem State.collectFrame_kept (s : State) (f : Frame) (i : Fin 8) : Kept s (s.collectFrame f i) := by
  unfold State.collectFrame
  split
  · exact .refl s
  · split
    · dsimp only
      split
      · refine Kept.trans ?_ (State.endCapture_kept _ _ _)
        exact .of_blocks rfl rfl rfl rfl rfl rfl rfl rfl rfl rfl rfl
      · exact .of_blocks rfl rfl rfl rfl rfl rfl rfl rfl rfl rfl rfl
    · exact .refl s

/-! ## Episodes -/

theorem State.latchOnset_kept (s : State) (m : MonitorId) : Kept s (s.latchOnset m) := by
  unfold State.latchOnset
  split
  · exact s.latchBoth_kept _
  · split <;> exact s.latch_kept _ _

theorem State.openEpisode_kept (s : State) (k : Fin 24) (o : Onset) : Kept s (s.openEpisode k o) := by
  unfold State.openEpisode
  dsimp only
  refine Kept.trans ?_ (State.latchOnset_kept _ _)
  refine Kept.trans ?_ (State.requestCapture_kept _ _ _ _ _)
  refine Kept.trans (t := (State.offer _ _ none).1) ?_ (.of_blocks rfl rfl rfl rfl rfl rfl rfl rfl rfl rfl rfl)
  refine Kept.trans ?_ (State.offer_kept _ _ _)
  exact .of_blocks rfl rfl rfl rfl rfl rfl rfl rfl rfl rfl rfl

theorem State.closeEpisode_kept (s : State) (k : Fin 24) (c : CloseCause) : Kept s (s.closeEpisode k c) := by
  unfold State.closeEpisode
  split
  · exact .refl s
  · exact (s.offerClose_kept _).trans (.of_blocks rfl rfl rfl rfl rfl rfl rfl rfl rfl rfl rfl)

theorem State.setMonitor_kept (s : State) (m : MonitorId) (v : Monitor) : Kept s (s.setMonitor m v) :=
  .of_blocks rfl rfl rfl rfl rfl rfl rfl rfl rfl rfl rfl

theorem State.mapMonitors_kept (s : State) (f : Monitor → Monitor) : Kept s (s.mapMonitors f) :=
  .of_blocks rfl rfl rfl rfl rfl rfl rfl rfl rfl rfl rfl

theorem State.evict_kept (s : State) (k : Fin 24) : Kept s (s.evict k) := by
  unfold State.evict
  split
  · exact .refl s
  · exact (s.closeEpisode_kept _ _).trans (State.setMonitor_kept _ _ _)

theorem State.untrackedOnset_kept (s : State) (o : Onset) : Kept s (s.untrackedOnset o) := by
  unfold State.untrackedOnset
  dsimp only
  refine Kept.trans (t := (s.markUntracked o.monitor).offerClose _) ?_ (.of_blocks rfl rfl rfl rfl rfl rfl rfl rfl rfl rfl rfl)
  exact (s.setMonitor_kept _ _).trans (State.offerClose_kept _ _)

theorem State.takeOnset_kept (s : State) (o : Onset) : Kept s (s.takeOnset o) := by
  unfold State.takeOnset
  split
  · exact s.openEpisode_kept _ _
  · split
    · exact (s.evict_kept _).trans (State.openEpisode_kept _ _ _)
    · exact s.untrackedOnset_kept o

theorem State.updateEpisode_kept (s : State) (m : MonitorId) (f : Episode → Episode) :
    Kept s (s.updateEpisode m f) := by
  unfold State.updateEpisode
  split
  · exact .refl s
  · exact .of_blocks rfl rfl rfl rfl rfl rfl rfl rfl rfl rfl rfl

theorem State.healEpisode_kept (s : State) (m : MonitorId) : Kept s (s.healEpisode m) := by
  unfold State.healEpisode
  split
  · exact s.closeEpisode_kept _ _
  · split
    · exact s.offerClose_kept _
    · exact .refl s

theorem State.boundaryClose_kept (s : State) (c : CloseCause) : Kept s (s.boundaryClose c) :=
  (Kept.foldl (fun s k => s.closeEpisode_kept k c) _ s).trans
    (Kept.foldl (f := fun acc m => acc.offerClose (acc.untrackedClose m c)) (fun s _ => s.offerClose_kept _) _ _)

/-! ## Verdicts -/

theorem State.holdVerdict_kept (s : State) (m : MonitorId) : Kept s (s.holdVerdict m) := by
  refine Kept.trans ?_ (State.updateEpisode_kept _ _ _)
  exact .of_blocks rfl rfl rfl rfl rfl rfl rfl rfl rfl rfl rfl

theorem State.applyFail_kept (s : State) (m : MonitorId) (g : Settings) (v : Verdict) :
    Kept s (s.applyFail m g v) := by
  unfold State.applyFail
  dsimp only
  split
  · exact (s.setMonitor_kept _ _).trans (State.updateEpisode_kept _ _ _)
  · split
    · exact (s.setMonitor_kept _ _).trans (State.takeOnset_kept _ _)
    · exact s.setMonitor_kept _ _

theorem State.applyPass_kept (s : State) (m : MonitorId) (g : Settings) : Kept s (s.applyPass m g) := by
  unfold State.applyPass
  dsimp only
  split
  · exact ((s.setMonitor_kept _ _).trans (State.healEpisode_kept _ _)).trans (State.setMonitor_kept _ _ _)
  · split
    · exact (s.setMonitor_kept _ _).trans (State.updateEpisode_kept _ _ _)
    · exact s.setMonitor_kept _ _

theorem State.takeVerdict_kept (s : State) (m : MonitorId) (v : Verdict) : Kept s (s.takeVerdict m v) := by
  unfold State.takeVerdict
  split
  · split
    · exact .of_blocks rfl rfl rfl rfl rfl rfl rfl rfl rfl rfl rfl
    · split
      · exact .of_blocks rfl rfl rfl rfl rfl rfl rfl rfl rfl rfl rfl
      · split
        · split
          · exact s.holdVerdict_kept _
          · exact s.applyFail_kept _ _ _
        · exact s.applyPass_kept _ _
  · exact .refl s

theorem State.takeRun_kept (m : MonitorId) (v : Verdict) : ∀ (n : Nat) (s : State), Kept s (s.takeRun m v n)
  | 0, s => .refl s
  | n + 1, s => (s.takeVerdict_kept m v).trans (State.takeRun_kept m v n _)

theorem State.storeFail_kept (s : State) : Kept s s.storeFail := s.takeVerdict_kept _ _

theorem State.takeStoreFails_kept (s : State) (fails : List Word) : Kept s (s.takeStoreFails fails) :=
  Kept.foldl (fun s v => s.takeVerdict_kept _ (internalFail v)) fails s

/-! ## The end of a step -/

/-- A step ends in a next state. -/
theorem State.finish_eq (s : State) : s.finish = .next s.giveStoreFails.showStatus := rfl

/-- An archive stop in a step, or none: without one nothing is put off; with one the write under way ends and the FAILs
are given. -/
theorem State.giveStoreFails_cases (s : State) :
    (s.quiet ∧ s.giveStoreFails = s) ∨
    (¬s.quiet ∧ Kept ({ s with archive := { s.archive with storeFails := [] } } : State).haltWrites s.giveStoreFails) := by
  unfold State.giveStoreFails
  split
  · exact .inl ⟨‹_›, rfl⟩
  · refine .inr ⟨?_, State.takeStoreFails_kept _ _⟩
    simp only [State.quiet]
    simp_all

/-- With nothing put off, the end of a step shows the status area and does nothing else. -/
theorem State.finish_quiet (s : State) (h : s.quiet) : s.finish = .next s.showStatus := by
  rcases s.giveStoreFails_cases with ⟨_, e⟩ | ⟨n, _⟩
  · rw [State.finish_eq, e]
  · exact absurd h n

/-! ## Writes cut off -/

/-- The array that `openWrites` gives is the array with the vacating header in it. -/
theorem State.openWrites_wf {s : State} (h : s.archive.array.wf Config.arrayBytes = true) :
    s.openWrites.1.wf Config.arrayBytes = true := performWrites_wf _ _ h

theorem State.cutOff_wf {s : State} (cut : Cut) (h : s.archive.array.wf Config.arrayBytes = true) :
    (s.cutOff cut).wf Config.arrayBytes = true := cutWrites_wf _ _ _ _ (State.openWrites_wf h)

theorem State.stopOff_wf {s : State} (n : Nat) (h : s.archive.array.wf Config.arrayBytes = true) :
    (s.stopOff n).wf Config.arrayBytes = true := stopWrites_wf _ _ _ (State.openWrites_wf h)

/-- No vacating is under way where the write path has no turn. -/
theorem State.vacatingHeader_of_not_mayWrite {s : State} (h : s.mayWrite = false) : s.vacatingHeader = [] := by
  unfold State.vacatingHeader
  split
  · rfl
  · simp [h]

theorem State.vacatingHeader_of_idle {s : State} (h : s.archive.preparation = none) : s.vacatingHeader = [] := by
  simp only [State.vacatingHeader, h]

/-- With no unit under way, a cut-off leaves the array as it stands. -/
theorem State.cutOff_idle {s : State} (cut : Cut) (hv : s.vacatingHeader = []) (hu : s.archive.unitsUnderWay = []) :
    s.cutOff cut = s.archive.array := by
  simp [State.cutOff, State.openWrites, hv, hu, performWrites, cutWrites]

theorem State.stopOff_idle {s : State} (n : Nat) (hv : s.vacatingHeader = []) (hu : s.archive.unitsUnderWay = []) :
    s.stopOff n = s.archive.array := by
  simp [State.stopOff, State.openWrites, hv, hu, performWrites, stopWrites]

/-- The write path has no turn under the store lockout (R166, R176). -/
theorem State.mayWrite_locked {s : State} (h : s.locked = true) : s.mayWrite = false := by
  simp [State.mayWrite, h]

/-- A write that has been cut off writes no unit. -/
theorem Archive.unitsUnderWay_suspended {a : Archive} (h : ∀ w, a.work = some w → w.suspended = true) :
    a.unitsUnderWay = [] := by
  unfold Archive.unitsUnderWay
  split
  · rw [if_pos (h _ ‹_›)]
  · rfl

/-- A cut-off of an entry moves the table, the counter, the head, the counts and the preparation alone (R160). -/
theorem Archive.cutEntry_frame (a : Archive) (n : Nat) :
    a.cutEntry n = { a with
      segments := (a.cutEntry n).segments, segmentCounter := (a.cutEntry n).segmentCounter
      head := (a.cutEntry n).head, entering := (a.cutEntry n).entering
      preparation := (a.cutEntry n).preparation } := by
  unfold Archive.cutEntry Archive.leaveEntry
  split
  · rfl
  · split
    · rfl
    · split
      · rfl
      · dsimp only
        split <;> rfl

/-- Without an entry under way, a cut-off leaves all that. -/
theorem Archive.cutEntry_eq_self {a : Archive} (n : Nat)
    (h : ∀ w, a.work = some w → w.suspended = true ∨ w.entry = none ∨ w.front ≤ n) : a.cutEntry n = a := by
  unfold Archive.cutEntry
  split
  · rfl
  · split
    · rfl
    · rename_i hw _ _ he
      rw [if_pos]
      rcases h _ hw with h | h | h
      · exact .inl h
      · rw [he] at h; cases h
      · exact .inr h

/-- What ends with a write under way at an archive stop (R154): the array, the work, the count of free values, and what an
entry had not reached. -/
@[simp] theorem State.haltWrites_frame (s : State) :
    s.haltWrites.pending = s.pending ∧ s.haltWrites.ports = s.ports ∧ s.haltWrites.exchange = s.exchange ∧
    s.haltWrites.chains = s.chains ∧ s.haltWrites.intake = s.intake ∧ s.haltWrites.qual = s.qual ∧
    s.haltWrites.episodes = s.episodes ∧ s.haltWrites.snaps = s.snaps ∧ s.haltWrites.rides = s.rides ∧
    s.haltWrites.supply = s.supply ∧ s.haltWrites.startUp = s.startUp ∧
    s.haltWrites.archive =
      { s.archive.cutEntry (Config.stopUnits s.draws) with
        array := s.haltWrites.archive.array, work := s.haltWrites.archive.work } ∧
    s.haltWrites.archive.work = none := by
  unfold State.haltWrites
  split
  · have e : s.archive.cutEntry (Config.stopUnits s.draws) = s.archive :=
      Archive.cutEntry_eq_self _ (by simp_all)
    rw [e]
    exact ⟨rfl, rfl, rfl, rfl, rfl, rfl, rfl, rfl, rfl, rfl, rfl, rfl, ‹_›⟩
  · exact ⟨rfl, rfl, rfl, rfl, rfl, rfl, rfl, rfl, rfl, rfl, rfl, rfl, rfl⟩

/-- The queue, the read jobs and the archive state are left by the end of a write at a stop. -/
theorem State.haltWrites_queue (s : State) :
    s.haltWrites.archive.queue = s.archive.queue ∧ s.haltWrites.archive.jobs = s.archive.jobs ∧
    s.haltWrites.archive.state = s.archive.state ∧ s.haltWrites.archive.storeFails = s.archive.storeFails ∧
    s.haltWrites.archive.sequenceCounter = s.archive.sequenceCounter := by
  have h := s.haltWrites_frame.2.2.2.2.2.2.2.2.2.2.2.1
  rw [Archive.cutEntry_frame] at h
  rw [h]
  exact ⟨rfl, rfl, rfl, rfl, rfl⟩

/-- The jobs yield to a vacating that is cut off, or nothing happens (R170). -/
theorem State.yieldVacating_cases (s : State) (cut : Cut) :
    s.yieldVacating cut = s ∨ s.yieldVacating cut = s.yieldJobs := by
  unfold State.yieldVacating
  split
  · exact .inr rfl
  · exact .inl rfl

/-- A write that was cut off is resumed after the read jobs have yielded; otherwise nothing is (R170, R176). -/
theorem State.resumeWrites_suspended {s : State} {w : Work} (h : s.archive.work = some w) (hw : w.suspended = true) :
    s.resumeWrites = s.yieldJobs.withArchive s.yieldJobs.archive.resume := by
  simp [State.resumeWrites, h, hw]

theorem State.resumeWrites_none {s : State} (h : ∀ w, s.archive.work = some w → w.suspended = false) :
    s.resumeWrites = s := by
  unfold State.resumeWrites
  split
  · rfl
  · next w hw => simp [h w hw]

/-- Nothing of a write that has been cut off changes (R154, R176). -/
theorem State.haltWrites_suspended {s : State} (h : ∀ w, s.archive.work = some w → w.suspended = true) :
    s.haltWrites.archive.array = s.archive.array := by
  unfold State.haltWrites
  split
  · rfl
  · simp [Archive.unitsUnderWay_suspended h, cutWrites]

theorem State.haltWrites_wf {s : State} (h : s.archive.array.wf Config.arrayBytes = true) :
    s.haltWrites.archive.array.wf Config.arrayBytes = true := by
  unfold State.haltWrites
  split
  · exact h
  · exact cutWrites_wf _ _ _ _ h

end Sys2Proof.Machine
end

