-- ==== Sys2Proof/Laws/Calm.lean ====
section
/-! SUPPORT. What an offer and a verdict leave when sequence numbers are left, so that no offer stops the archive
(R143, R146): the chains, exchange memory, the waiting slips and the read jobs. -/

namespace Sys2Proof.Machine

/-- Between `s` and `t` at most `n` records were offered and the archive was not stopped by one. -/
structure Calm (n : Nat) (s t : State) : Prop where
  chains : t.chains = s.chains
  exchange : t.exchange = s.exchange
  intake : t.intake = s.intake
  state : t.archive.state = s.archive.state
  storeFails : t.archive.storeFails = s.archive.storeFails
  jobs : t.archive.jobs = s.archive.jobs
  work : t.archive.work = s.archive.work
  preparation : t.archive.preparation = s.archive.preparation
  queue : ∃ added, t.archive.queue = s.archive.queue ++ added ∧ added.length ≤ n
  counter : t.archive.sequenceCounter ≤ s.archive.sequenceCounter + n
  draws : t.draws = s.draws

theorem Calm.refl (n : Nat) (s : State) : Calm n s s := by
  constructor <;> first | rfl | exact ⟨[], by simp⟩ | omega

theorem Calm.trans {n k : Nat} {s t u : State} (h : Calm n s t) (j : Calm k t u) : Calm (n + k) s u where
  chains := j.chains.trans h.chains
  exchange := j.exchange.trans h.exchange
  intake := j.intake.trans h.intake
  state := j.state.trans h.state
  storeFails := j.storeFails.trans h.storeFails
  jobs := j.jobs.trans h.jobs
  work := j.work.trans h.work
  preparation := j.preparation.trans h.preparation
  queue := by
    obtain ⟨a, ha, la⟩ := h.queue
    obtain ⟨b, hb, lb⟩ := j.queue
    exact ⟨a ++ b, by rw [hb, ha, List.append_assoc], by rw [List.length_append]; omega⟩
  counter := by have := h.counter; have := j.counter; omega
  draws := j.draws.trans h.draws

theorem Calm.mono {n k : Nat} {s t : State} (h : Calm n s t) (hn : n ≤ k) : Calm k s t where
  chains := h.chains
  exchange := h.exchange
  intake := h.intake
  state := h.state
  storeFails := h.storeFails
  jobs := h.jobs
  work := h.work
  preparation := h.preparation
  queue := by obtain ⟨a, ha, la⟩ := h.queue; exact ⟨a, ha, by omega⟩
  counter := by have := h.counter; omega
  draws := h.draws

theorem Calm.ite {n : Nat} {c : Prop} [Decidable c] {s t u : State} (h : Calm n s t) (k : Calm n s u) :
    Calm n s (if c then t else u) := by split <;> assumption

/-- A change of the ports, the monitors, the episodes or the slots alone. -/
theorem Calm.of_blocks {s t : State} (chains : t.chains = s.chains) (exchange : t.exchange = s.exchange)
    (intake : t.intake = s.intake) (archive : t.archive = s.archive) (draws : t.draws = s.draws) : Calm 0 s t := by
  constructor <;> first | assumption | simp [archive]

theorem State.countDrop_calm (s : State) : Calm 0 s s.countDrop := by
  constructor <;> first | exact Nat.le_refl _ | rfl | exact ⟨[], by simp [State.countDrop, State.latchBoth]⟩

theorem State.accept_calm (s : State) (r : Record) (w : Option (Side × Word)) : Calm 1 s (s.accept r w) := by
  unfold State.accept
  dsimp only
  refine Calm.ite ?_ ?_ <;>
    exact { chains := rfl, exchange := rfl, intake := rfl, state := rfl, storeFails := rfl, jobs := rfl, work := rfl,
            preparation := rfl, queue := ⟨[_], rfl, Nat.le_refl _⟩, counter := Nat.le_refl _, draws := rfl }

theorem State.offer_calm (s : State) (r : Record) (w : Option (Side × Word))
    (h : s.archive.sequenceCounter < Config.counterEnd) : Calm 1 s (s.offer r w).1 := by
  have e : s.stopIfExhausted = s := by unfold State.stopIfExhausted; rw [if_neg (by omega)]
  unfold State.offer
  rw [e]
  dsimp only
  split
  · exact s.accept_calm r w
  · exact s.countDrop_calm.mono (by omega)

theorem State.offerClose_calm (s : State) (r : Record) (h : s.archive.sequenceCounter < Config.counterEnd) :
    Calm 1 s (s.offerClose r) := s.offer_calm r none h

theorem State.freeSlot_calm (s : State) (i : Fin 8) : Calm 0 s (s.freeSlot i) := by
  unfold State.freeSlot
  split
  · exact .refl 0 s
  · exact .of_blocks rfl rfl rfl rfl rfl

theorem State.settleSlot_calm (s : State) (b : Bool) (i : Fin 8) (c : Capture) : Calm 0 s (s.settleSlot b i c) := by
  unfold State.settleSlot
  split
  · exact .of_blocks rfl rfl rfl rfl rfl
  · exact s.freeSlot_calm i

theorem State.endCapture_calm (s : State) (i : Fin 8) (c : EndCause)
    (h : s.archive.sequenceCounter < Config.counterEnd) : Calm 1 s (s.endCapture i c) := by
  unfold State.endCapture
  split
  · exact .refl 1 s
  · split
    · refine Calm.trans (n := 1) (k := 0) ?_ (State.settleSlot_calm _ _ _ _)
      refine Calm.trans (n := 0) (k := 1) ?_ (State.offer_calm _ _ _ h)
      exact .of_blocks rfl rfl rfl rfl rfl
    · exact .refl 1 s

theorem State.beginCapture_calm (s : State) (i : Fin 8) (c : Capture)
    (h : s.archive.sequenceCounter < Config.counterEnd) : Calm 1 s (s.beginCapture i c) := by
  unfold State.beginCapture
  dsimp only
  split
  · refine Calm.trans (n := 0) (k := 1) ?_ (State.endCapture_calm _ _ _ h)
    exact .of_blocks rfl rfl rfl rfl rfl
  · refine Calm.mono (n := 0) ?_ (by omega)
    exact .of_blocks rfl rfl rfl rfl rfl

theorem State.requestCapture_calm (s : State) (k : Fin 24) (e : Episode) (pre post : Nat)
    (h : s.archive.sequenceCounter < Config.counterEnd) : Calm 1 s (s.requestCapture k e pre post) := by
  unfold State.requestCapture
  split
  · exact .refl 1 s
  · split
    · refine Calm.mono (n := 0) ?_ (by omega)
      exact .of_blocks rfl rfl rfl rfl rfl
    · refine Calm.trans (n := 0) (k := 1) ?_ (State.beginCapture_calm _ _ _ h)
      exact .of_blocks rfl rfl rfl rfl rfl

theorem State.latchOnset_calm (s : State) (m : MonitorId) : Calm 0 s (s.latchOnset m) := by
  unfold State.latchOnset
  split
  · exact .of_blocks rfl rfl rfl rfl rfl
  · split <;> exact .of_blocks rfl rfl rfl rfl rfl

theorem State.openEpisode_calm (s : State) (k : Fin 24) (o : Onset)
    (h : s.archive.sequenceCounter + 2 ≤ Config.counterEnd) : Calm 2 s (s.openEpisode k o) := by
  unfold State.openEpisode
  dsimp only
  refine Calm.trans (n := 2) (k := 0) ?_ (State.latchOnset_calm _ _)
  have h1 : ∀ (e : Episodes) (r : Record), Calm 1 s (State.offer { s with episodes := e } r none).1 := by
    intro e r
    refine Calm.trans (n := 0) (k := 1) ?_ (State.offer_calm _ _ _ ?_)
    · exact .of_blocks rfl rfl rfl rfl rfl
    · exact (by omega : s.archive.sequenceCounter < Config.counterEnd)
  refine Calm.trans (n := 1) (k := 1) ?_ (State.requestCapture_calm _ _ _ _ _ ?_)
  · exact Calm.trans (n := 1) (k := 0) (h1 _ _) (.of_blocks rfl rfl rfl rfl rfl)
  · exact Nat.lt_of_le_of_lt (h1 _ _).counter (by omega)

theorem State.closeEpisode_calm (s : State) (k : Fin 24) (c : CloseCause)
    (h : s.archive.sequenceCounter < Config.counterEnd) : Calm 1 s (s.closeEpisode k c) := by
  unfold State.closeEpisode
  split
  · exact .refl 1 s
  · exact Calm.trans (n := 1) (k := 0) (s.offerClose_calm _ h) (.of_blocks rfl rfl rfl rfl rfl)

theorem State.evict_calm (s : State) (k : Fin 24) (h : s.archive.sequenceCounter < Config.counterEnd) :
    Calm 1 s (s.evict k) := by
  unfold State.evict
  split
  · exact .refl 1 s
  · exact Calm.trans (n := 1) (k := 0) (s.closeEpisode_calm _ _ h) (.of_blocks rfl rfl rfl rfl rfl)

theorem State.untrackedOnset_calm (s : State) (o : Onset) (h : s.archive.sequenceCounter < Config.counterEnd) :
    Calm 1 s (s.untrackedOnset o) := by
  unfold State.untrackedOnset
  dsimp only
  refine Calm.trans (n := 1) (k := 0) (t := (s.markUntracked o.monitor).offerClose _) ?_ (.of_blocks rfl rfl rfl rfl rfl)
  refine Calm.trans (n := 0) (k := 1) ?_ (State.offerClose_calm _ _ h)
  exact .of_blocks rfl rfl rfl rfl rfl

/-- An onset offers three records at most: the CLOSE of an evicted episode, its own ONSET, and a SNAPSHOT that wants no
frames after the onset. -/
theorem State.takeOnset_calm (s : State) (o : Onset) (h : s.numbersLeft) : Calm 3 s (s.takeOnset o) := by
  simp only [State.numbersLeft] at h
  unfold State.takeOnset
  split
  · exact (s.openEpisode_calm _ _ (by omega)).mono (by omega)
  · split
    · have h1 := s.evict_calm ‹_› (by omega)
      exact Calm.trans (n := 1) (k := 2) h1 (State.openEpisode_calm _ _ _ (by have := h1.counter; omega))
    · exact (s.untrackedOnset_calm o (by omega)).mono (by omega)

theorem State.updateEpisode_calm (s : State) (m : MonitorId) (f : Episode → Episode) :
    Calm 0 s (s.updateEpisode m f) := by
  unfold State.updateEpisode
  split
  · exact .refl 0 s
  · exact .of_blocks rfl rfl rfl rfl rfl

theorem State.healEpisode_calm (s : State) (m : MonitorId) (h : s.archive.sequenceCounter < Config.counterEnd) :
    Calm 1 s (s.healEpisode m) := by
  unfold State.healEpisode
  split
  · exact s.closeEpisode_calm _ _ h
  · split
    · exact s.offerClose_calm _ h
    · exact .refl 1 s

theorem State.takeVerdict_calm (s : State) (m : MonitorId) (v : Verdict) (h : s.numbersLeft) :
    Calm 3 s (s.takeVerdict m v) := by
  have hl : s.archive.sequenceCounter < Config.counterEnd := by simp only [State.numbersLeft] at h; omega
  have mon : ∀ w, Calm 0 s (s.setMonitor m w) := fun w => .of_blocks rfl rfl rfl rfl rfl
  unfold State.takeVerdict
  split
  · split
    · refine Calm.mono (n := 0) ?_ (by omega)
      exact .of_blocks rfl rfl rfl rfl rfl
    · split
      · refine Calm.mono (n := 0) ?_ (by omega)
        exact .of_blocks rfl rfl rfl rfl rfl
      · split
        · split
          · unfold State.holdVerdict
            dsimp only
            refine (Calm.trans (n := 0) (k := 0) ?_ (State.updateEpisode_calm _ _ _)).mono (by omega)
            exact .of_blocks rfl rfl rfl rfl rfl
          · unfold State.applyFail
            dsimp only
            split
            · exact (Calm.trans (n := 0) (k := 0) (mon _) (State.updateEpisode_calm _ _ _)).mono (by omega)
            · split
              · exact Calm.trans (n := 0) (k := 3) (mon _) (State.takeOnset_calm _ _ h)
              · exact (mon _).mono (by omega)
        · unfold State.applyPass
          dsimp only
          split
          · refine Calm.mono (n := 1) ?_ (by omega)
            refine Calm.trans (n := 1) (k := 0) (t := State.healEpisode _ _) ?_ (.of_blocks rfl rfl rfl rfl rfl)
            exact Calm.trans (n := 0) (k := 1) (mon _) (State.healEpisode_calm _ _ hl)
          · split
            · exact (Calm.trans (n := 0) (k := 0) (mon _) (State.updateEpisode_calm _ _ _)).mono (by omega)
            · exact (mon _).mono (by omega)
  · exact .refl 3 s

/-- A misuse with numbers left (R108): the side's count, its MISUSE flag and the verdict. -/
theorem State.misuse_calm (s : State) (x : Side) (cause : Word) (h : s.numbersLeft) :
    (s.misuse x cause).chains =
        { s.chains with misuse := s.chains.misuse.set x (satInc (s.chains.misuse.get x)) } ∧
      (s.misuse x cause).exchange = s.exchange ∧ (s.misuse x cause).intake = s.intake ∧
      (s.misuse x cause).archive.jobs = s.archive.jobs ∧
      (s.misuse x cause).archive.storeFails = s.archive.storeFails := by
  unfold State.misuse
  dsimp only
  split
  · have c := State.takeVerdict_calm
      (State.latch { s with chains := { s.chains with
        misuse := s.chains.misuse.set x (satInc (s.chains.misuse.get x)) } } x .misuse) (misuseMonitor x)
        (internalFail cause) h
    exact ⟨c.chains, c.exchange, c.intake, c.jobs, c.storeFails⟩
  · exact ⟨rfl, rfl, rfl, rfl, rfl⟩

end Sys2Proof.Machine
end

