-- ==== Sys2Proof/Laws/Archive.lean ====
section
/-! SUPPORT. What the operations of the archive unit and of the ports do, said once for each: units begun, entries,
yields, offers answered, the drain, and where a slip lies. -/

namespace Sys2Proof.Machine

/-! ## Ports and slips -/

theorem State.SlipAt.index {s : State} {x : Side} {slip : Word} {l : Layout} {k : Nat} (h : s.SlipAt x slip l k) :
    s.slipIndex x slip = some k := by
  obtain ⟨hl, hk, hs⟩ := h
  simp only [State.slipIndex, hl, Pool.slipIndex, hs]
  rw [if_pos (by omega)]
  simp

/-- A slip that has a position lies at it. -/
theorem State.slipAt_of_index {s : State} {x : Side} {slip : Word} {k : Nat} (h : s.slipIndex x slip = some k) :
    ∃ l, s.SlipAt x slip l k := by
  unfold State.slipIndex at h
  split at h
  · rename_i l hl
    simp only [Pool.slipIndex] at h
    split at h
    · simp only [Option.some.injEq] at h
      exact ⟨l, hl, by omega, by omega⟩
    · simp at h
  · simp at h

/-! ## Units begun -/

@[simp] theorem Archive.begin_fields (a : Archive) (i : WorkItem) (n : Nat) (e : Option Entry)
    (ws : List (Nat × Unit64)) :
    (a.begin i n e ws).array = (performWrites a.array ws).1 ∧
    (a.begin i n e ws).work = some ⟨i, n, e, (performWrites a.array ws).2, false⟩ ∧
    (a.begin i n e ws).segments = a.segments ∧ (a.begin i n e ws).head = a.head ∧
    (a.begin i n e ws).segmentCounter = a.segmentCounter ∧ (a.begin i n e ws).sequenceCounter = a.sequenceCounter ∧
    (a.begin i n e ws).state = a.state ∧ (a.begin i n e ws).queue = a.queue ∧
    (a.begin i n e ws).pinGeneration = a.pinGeneration ∧ (a.begin i n e ws).pinnedBytes = a.pinnedBytes ∧
    (a.begin i n e ws).wipeSequence = a.wipeSequence ∧ (a.begin i n e ws).recordsDropped = a.recordsDropped ∧
    (a.begin i n e ws).carryStalls = a.carryStalls ∧ (a.begin i n e ws).stopUnitMissing = a.stopUnitMissing ∧
    (a.begin i n e ws).preparation = a.preparation ∧ (a.begin i n e ws).jobs = a.jobs ∧
    (a.begin i n e ws).entering = a.entering ∧
    (a.begin i n e ws).readTurn = a.readTurn ∧ (a.begin i n e ws).storeFails = a.storeFails :=
  ⟨rfl, rfl, rfl, rfl, rfl, rfl, rfl, rfl, rfl, rfl, rfl, rfl, rfl, rfl, rfl, rfl, rfl, rfl, rfl⟩

/-- Units begun keep the array's canonical form. -/
theorem Archive.begin_wf {a : Archive} (i : WorkItem) (n : Nat) (e : Option Entry) (ws : List (Nat × Unit64))
    (h : a.array.wf Config.arrayBytes = true) : (a.begin i n e ws).array.wf Config.arrayBytes = true :=
  performWrites_wf ws _ h

/-- The array after a verify failure keeps the canonical form. -/
theorem failedArray_wf {w : Work} {flips : List Unit64} {m m' : Memory} (h : m.wf Config.arrayBytes = true)
    (e : failedArray w flips m = some m') : m'.wf Config.arrayBytes = true := by
  simp only [failedArray] at e
  split at e
  · simp only [Option.some.injEq] at e
    subst e
    exact misread_wf _ _ _ (stopWrites_wf _ _ _ h)
  · split at e
    · simp only [Option.some.injEq] at e
      subst e
      exact misread_wf _ _ _ h
    · simp at e

/-! ## Yields -/

theorem State.yieldJob_none {s : State} {x : Side} (h : s.archive.jobs.get x = none) : s.yieldJob x = s := by
  simp only [State.yieldJob, h]

/-- With no read job, nothing yields. -/
theorem State.yieldJobs_noJobs {s : State} (h : s.noJobs) : s.yieldJobs = s := by
  have hx : ∀ x, s.archive.jobs.get x = none := fun x => by rw [show s.archive.jobs = _ from h, Sides.get_both]
  simp only [State.yieldJobs, State.yieldJob_none (hx .engine), State.yieldJob_none (hx .brake)]

theorem State.yieldJob_kept (s : State) (x : Side) : Kept s (s.yieldJob x) := by
  unfold State.yieldJob
  split
  · exact .refl s
  · exact (s.writeControlBlock_kept _ _).trans (State.withArchive_kept _ _ rfl rfl rfl rfl rfl rfl rfl rfl rfl rfl)

theorem State.yieldJobs_kept (s : State) : Kept s s.yieldJobs :=
  (s.yieldJob_kept _).trans (State.yieldJob_kept _ _)

/-! ## Ring order and entries -/

theorem Archive.firstUsable_ne (a : Archive) (avoid : Fin 16) :
    ∀ (fuel : Nat) (i j : Fin 16), (∀ n, n < fuel → i + Fin.ofNat 16 n ≠ avoid) → a.firstUsable fuel i = some j →
      j ≠ avoid
  | 0, _, _, _, h => by simp [Archive.firstUsable] at h
  | fuel + 1, i, j, hne, h => by
    simp only [Archive.firstUsable] at h
    split at h
    · refine Archive.firstUsable_ne a avoid fuel (i + 1) j (fun n hn => ?_) h
      have := hne (n + 1) (by omega)
      intro e
      apply this
      rw [← e]
      ext
      simp [Fin.ofNat, Fin.val_add]
      omega
    · simp only [Option.some.injEq] at h
      subst h
      have := hne 0 (by omega)
      intro e
      apply this
      rw [e]
      ext
      simp [Fin.ofNat]

/-- The segment entered next is not the head segment. -/
theorem Archive.nextSegment_ne_head {a : Archive} {h : Head} {i : Fin 16} (hh : a.head = some h)
    (hi : a.nextSegment = some i) : i ≠ h.segment := by
  simp only [Archive.nextSegment, hh] at hi
  refine Archive.firstUsable_ne a h.segment 15 (h.segment + 1) i (fun n hn e => ?_) hi
  have := congrArg Fin.val e
  simp [Fin.ofNat, Fin.val_add] at this
  have := h.segment.isLt
  omega

/-- A head advance while segment sequences are left (R160). -/
theorem State.advance_enters {s : State} {i : Fin 16} (hc : s.archive.segmentCounter < Config.counterEnd)
    (hi : s.archive.nextSegment = some i) :
    s.advance = (s.withArchive (s.archive.enter (s.archive.entryTo i)), some (s.archive.entryTo i)) := by
  simp only [State.advance, if_neg (Nat.not_le.mpr hc), hi]

/-- A head advance after the last segment sequence stops the archive (R143). -/
theorem State.advance_exhausted {s : State} (hc : Config.counterEnd ≤ s.archive.segmentCounter) :
    s.advance = ((s.withArchive { s.archive with work := none }).archiveStop false, none) := by
  simp only [State.advance, if_pos hc]

/-! ## Offers -/

theorem State.stopIfExhausted_eq {s : State} (h : s.offersLeft 1) : s.stopIfExhausted = s := by
  unfold State.stopIfExhausted
  rw [if_neg]
  have : s.archive.sequenceCounter + 1 ≤ Config.counterEnd := h
  omega

/-- An offer that is accepted (R146, R147). -/
theorem State.offer_accepted {s : State} {r : Record} (w : Option (Side × Word)) (h : s.offersLeft 1)
    (ha : s.archive.accepts r = true) : s.offer r w = (s.accept r w, true) := by
  simp only [State.offer, State.stopIfExhausted_eq h, ha, if_true]

/-- An offer that is dropped (R148). -/
theorem State.offer_dropped {s : State} {r : Record} (w : Option (Side × Word)) (h : s.offersLeft 1)
    (ha : s.archive.accepts r = false) : s.offer r w = (s.countDrop, false) := by
  simp only [State.offer, State.stopIfExhausted_eq h, ha, Bool.false_eq_true, if_false]

/-! ## The drain -/

/-- The drain goes on while a record is queued, and there is none outside RESTARTING (R178). -/
theorem State.endDrain_eq {s : State} (cut : Cut) (h : s.archive.queue ≠ [] ∨ s.startUp.part ≠ .restarting) :
    s.endDrain cut = s := by
  unfold State.endDrain
  rw [if_neg]
  rintro ⟨hp, hq⟩
  rcases h with h | h <;> contradiction

end Sys2Proof.Machine
end

