-- ==== Sys2Proof/Laws/Exchange.lean ====
section
/-! SUPPORT. Offers and verdicts look at nothing in exchange memory: with sequence numbers left, so that no offer stops
the archive (R143, R146), they commute with replacing it. -/

namespace Sys2Proof.Machine

/-- The state with another exchange memory. -/
def State.withExchange (s : State) (e : Exchange) : State := { s with exchange := e }

theorem State.countDrop_withExchange (s : State) (e : Exchange) :
    (s.withExchange e).countDrop = s.countDrop.withExchange e := rfl

theorem State.accept_withExchange (s : State) (e : Exchange) (r : Record) (w : Option (Side × Word)) :
    (s.withExchange e).accept r w = (s.accept r w).withExchange e := by
  unfold State.accept
  dsimp only
  rw [apply_ite (State.withExchange · e)]
  rfl

theorem State.offer_withExchange (s : State) (e : Exchange) (r : Record) (w : Option (Side × Word))
    (h : s.archive.sequenceCounter < Config.counterEnd) :
    (s.withExchange e).offer r w = ((s.offer r w).1.withExchange e, (s.offer r w).2) := by
  have e1 : s.stopIfExhausted = s := by unfold State.stopIfExhausted; rw [if_neg (by omega)]
  have e2 : (s.withExchange e).stopIfExhausted = s.withExchange e := by
    unfold State.stopIfExhausted; rw [if_neg (by simp only [State.withExchange]; omega)]
  unfold State.offer
  rw [e1, e2]
  dsimp only
  rw [show (s.withExchange e).archive = s.archive from rfl]
  split
  · rw [State.accept_withExchange]
  · rw [State.countDrop_withExchange]

theorem State.offerClose_withExchange (s : State) (e : Exchange) (r : Record)
    (h : s.archive.sequenceCounter < Config.counterEnd) :
    (s.withExchange e).offerClose r = (s.offerClose r).withExchange e := by
  unfold State.offerClose
  rw [s.offer_withExchange e r none h]

theorem State.freeSlot_withExchange (s : State) (e : Exchange) (i : Fin 8) :
    (s.withExchange e).freeSlot i = (s.freeSlot i).withExchange e := by
  unfold State.freeSlot
  rw [show (s.withExchange e).snaps = s.snaps from rfl]
  split <;> rfl

theorem State.settleSlot_withExchange (s : State) (e : Exchange) (b : Bool) (i : Fin 8) (c : Capture) :
    (s.withExchange e).settleSlot b i c = (s.settleSlot b i c).withExchange e := by
  unfold State.settleSlot
  split
  · rfl
  · exact s.freeSlot_withExchange e i

theorem State.endCapture_withExchange (s : State) (e : Exchange) (i : Fin 8) (c : EndCause)
    (h : s.archive.sequenceCounter < Config.counterEnd) :
    (s.withExchange e).endCapture i c = (s.endCapture i c).withExchange e := by
  unfold State.endCapture
  rw [show (s.withExchange e).snaps = s.snaps from rfl]
  split
  · rfl
  · rename_i k hk
    split
    · have o := fun r : Record => State.offer_withExchange { s with snaps := { s.snaps with
        slots := s.snaps.slots.set i (some { k with phase := .complete, timer := none, endCause := some c }) } } e
        r none h
      dsimp only
      rw [← State.settleSlot_withExchange]
      exact congrArg (fun p : State × Bool => p.1.settleSlot p.2 i _) (o _)
    · rfl

theorem State.beginCapture_withExchange (s : State) (e : Exchange) (i : Fin 8) (c : Capture)
    (h : s.archive.sequenceCounter < Config.counterEnd) :
    (s.withExchange e).beginCapture i c = (s.beginCapture i c).withExchange e := by
  unfold State.beginCapture
  dsimp only
  split
  · exact State.endCapture_withExchange { s with snaps := { s.snaps with
      slots := s.snaps.slots.set i (some c), order := s.snaps.order ++ [i] } } e i .complete h
  · rfl

theorem State.requestCapture_withExchange (s : State) (e : Exchange) (k : Fin 24) (p : Episode) (pre post : Nat)
    (h : s.archive.sequenceCounter < Config.counterEnd) :
    (s.withExchange e).requestCapture k p pre post = (s.requestCapture k p pre post).withExchange e := by
  unfold State.requestCapture
  rw [show (s.withExchange e).snaps = s.snaps from rfl]
  split
  · rfl
  · split
    · rfl
    · rename_i i _
      exact State.beginCapture_withExchange { s with episodes := { s.episodes with
        table := s.episodes.table.set k ((s.episodes.table.get k).map (Episode.withSlot i)) } } e i _ h

theorem State.latchOnset_withExchange (s : State) (e : Exchange) (m : MonitorId) :
    (s.withExchange e).latchOnset m = (s.latchOnset m).withExchange e := by
  unfold State.latchOnset
  split
  · rfl
  · split <;> rfl

theorem State.openEpisode_withExchange (s : State) (e : Exchange) (k : Fin 24) (o : Onset)
    (h : s.archive.sequenceCounter + 2 ≤ Config.counterEnd) :
    (s.withExchange e).openEpisode k o = (s.openEpisode k o).withExchange e := by
  let s1 : State := { s with episodes := { s.episodes with
    table := s.episodes.table.set k (some (s.newEpisode o)), counter := nextEpisodeNumber s.episodes.counter } }
  have h1 := s1.offer_withExchange e (s.onsetRecord o (s.newEpisode o).number false) none
    (show s.archive.sequenceCounter < _ by omega)
  have h2 := (s1.offer_calm (s.onsetRecord o (s.newEpisode o).number false) none
    (show s.archive.sequenceCounter < _ by omega)).counter
  have h3 : s1.archive.sequenceCounter = s.archive.sequenceCounter := rfl
  unfold State.openEpisode
  dsimp only
  rw [← State.latchOnset_withExchange, ← State.requestCapture_withExchange]
  · exact congrArg (fun p : State × Bool => (State.requestCapture { p.1 with episodes := { p.1.episodes with
      table := p.1.episodes.table.set k ((p.1.episodes.table.get k).map (Episode.withQueued p.2)) } } k
      (s.newEpisode o) o.preFrames o.postFrames).latchOnset o.monitor) h1
  · show (s1.offer _ none).1.archive.sequenceCounter < _
    omega

theorem State.closeEpisode_withExchange (s : State) (e : Exchange) (k : Fin 24) (c : CloseCause)
    (h : s.archive.sequenceCounter < Config.counterEnd) :
    (s.withExchange e).closeEpisode k c = (s.closeEpisode k c).withExchange e := by
  unfold State.closeEpisode
  rw [show (s.withExchange e).episodes = s.episodes from rfl]
  split
  · rfl
  · dsimp only
    rw [show ∀ p, (s.withExchange e).closeRecord p c = s.closeRecord p c from fun _ => rfl,
      s.offerClose_withExchange e _ h]
    rfl

theorem State.evict_withExchange (s : State) (e : Exchange) (k : Fin 24)
    (h : s.archive.sequenceCounter < Config.counterEnd) :
    (s.withExchange e).evict k = (s.evict k).withExchange e := by
  unfold State.evict
  rw [show (s.withExchange e).episodes = s.episodes from rfl]
  split
  · rfl
  · rw [s.closeEpisode_withExchange e k _ h]
    rfl

theorem State.untrackedOnset_withExchange (s : State) (e : Exchange) (o : Onset)
    (h : s.archive.sequenceCounter < Config.counterEnd) :
    (s.withExchange e).untrackedOnset o = (s.untrackedOnset o).withExchange e := by
  have h1 := (s.markUntracked o.monitor).offerClose_withExchange e (s.onsetRecord o 0 true) h
  exact congrArg (fun t : State => { t with episodes := { t.episodes with
    untrackedOnsets := satInc t.episodes.untrackedOnsets } }) h1

theorem State.takeOnset_withExchange (s : State) (e : Exchange) (o : Onset) (h : s.numbersLeft) :
    (s.withExchange e).takeOnset o = (s.takeOnset o).withExchange e := by
  simp only [State.numbersLeft] at h
  unfold State.takeOnset
  rw [show (s.withExchange e).episodes = s.episodes from rfl]
  split
  · exact s.openEpisode_withExchange e _ o (by omega)
  · split
    · have h1 := (s.evict_calm ‹_› (by omega)).counter
      rw [s.evict_withExchange e _ (by omega), State.openEpisode_withExchange _ e _ o (by omega)]
    · exact s.untrackedOnset_withExchange e o (by omega)

theorem State.updateEpisode_withExchange (s : State) (e : Exchange) (m : MonitorId) (f : Episode → Episode) :
    (s.withExchange e).updateEpisode m f = (s.updateEpisode m f).withExchange e := by
  unfold State.updateEpisode
  rw [show (s.withExchange e).episodes = s.episodes from rfl]
  split <;> rfl

theorem State.healEpisode_withExchange (s : State) (e : Exchange) (m : MonitorId)
    (h : s.archive.sequenceCounter < Config.counterEnd) :
    (s.withExchange e).healEpisode m = (s.healEpisode m).withExchange e := by
  unfold State.healEpisode
  rw [show (s.withExchange e).episodes = s.episodes from rfl, show (s.withExchange e).monitor m = s.monitor m from rfl]
  split
  · exact s.closeEpisode_withExchange e _ _ h
  · split
    · exact s.offerClose_withExchange e _ h
    · rfl

theorem State.holdVerdict_withExchange (s : State) (e : Exchange) (m : MonitorId) :
    (s.withExchange e).holdVerdict m = (s.holdVerdict m).withExchange e :=
  let q := (s.setMonitor m { s.monitor m with held := satInc (s.monitor m).held }).qual
  State.updateEpisode_withExchange { s with qual := { q with heldVerdicts := satInc q.heldVerdicts } } e m _

theorem State.applyFail_withExchange (s : State) (e : Exchange) (m : MonitorId) (g : Settings) (v : Verdict)
    (h : s.numbersLeft) : (s.withExchange e).applyFail m g v = (s.applyFail m g v).withExchange e := by
  unfold State.applyFail
  dsimp only
  rw [show (s.withExchange e).monitor m = s.monitor m from rfl]
  split
  · exact State.updateEpisode_withExchange (s.setMonitor m _) e m _
  · split
    · exact State.takeOnset_withExchange (s.setMonitor m _) e _ h
    · rfl

theorem State.applyPass_withExchange (s : State) (e : Exchange) (m : MonitorId) (g : Settings) (h : s.numbersLeft) :
    (s.withExchange e).applyPass m g = (s.applyPass m g).withExchange e := by
  have hl : s.archive.sequenceCounter < Config.counterEnd := by simp only [State.numbersLeft] at h; omega
  unfold State.applyPass
  dsimp only
  rw [show (s.withExchange e).monitor m = s.monitor m from rfl]
  split
  · exact congrArg (fun t : State => t.setMonitor m (t.monitor m).heal)
      ((s.setMonitor m ((s.monitor m).afterPass g s.isRiding)).healEpisode_withExchange e m hl)
  · split
    · exact State.updateEpisode_withExchange (s.setMonitor m _) e m _
    · rfl

/-- A verdict looks at nothing in exchange memory and changes nothing there (R7). -/
theorem State.takeVerdict_withExchange (s : State) (e : Exchange) (m : MonitorId) (v : Verdict) (h : s.numbersLeft) :
    (s.withExchange e).takeVerdict m v = (s.takeVerdict m v).withExchange e := by
  unfold State.takeVerdict
  rw [show (s.withExchange e).monitor m = s.monitor m from rfl, show (s.withExchange e).isReady = s.isReady from rfl]
  split
  · split
    · rfl
    · split
      · rfl
      · split
        · rw [show ∀ g, (s.withExchange e).suppressed g = s.suppressed g from fun _ => rfl]
          split
          · exact s.holdVerdict_withExchange e m
          · exact s.applyFail_withExchange e m _ v h
        · exact s.applyPass_withExchange e m _ h
  · rfl

/-- A misuse looks at nothing in exchange memory and changes nothing there (R108). -/
theorem State.misuse_withExchange (s : State) (e : Exchange) (x : Side) (cause : Word) (h : s.numbersLeft) :
    (s.withExchange e).misuse x cause = (s.misuse x cause).withExchange e := by
  unfold State.misuse
  dsimp only
  rw [apply_ite (State.withExchange · e)]
  refine ite_congr rfl (fun _ => ?_) (fun _ => rfl)
  exact State.takeVerdict_withExchange (State.latch { s with chains := { s.chains with
    misuse := s.chains.misuse.set x (satInc (s.chains.misuse.get x)) } } x .misuse) e _ _ h

/-- A frame covers an even address when one of its words has it, the addresses going on at 0 behind FFFEh (R84, R188). -/
theorem frameCovers_iff {start : Word} {n a : Nat} (hs : start.toNat % 2 = 0) (ha : a % 2 = 0) (hb : a < 0x10000) :
    frameCovers start n a = true ↔ ∃ k, k < n ∧ (start.toNat + 2 * k) % 0x10000 = a := by
  have h := start.isLt
  simp only [frameCovers, decide_eq_true_eq]
  constructor
  · intro hlt
    exact ⟨(a + 0x10000 - start.toNat) % 0x10000 / 2, by omega, by omega⟩
  · rintro ⟨k, hk, he⟩
    omega

end Sys2Proof.Machine
end

