-- ==== Sys2Proof/Tests/Slice0.lean ====
section
/-! SUPPORT. Small tests: ill-formed commands, one step of every command, and for every statement a state and operands
that meet its hypotheses. -/

namespace Sys2Proof.Tests

set_option Elab.async false

open Sys2Proof.Machine

/-! ## Small states -/

/-- The layout of the tests: the engine mark at its pool count, the engine limit at its least value, the brake side's
off. -/
def layout : Layout := ⟨0x1000, ⟨⟨0x100, 4⟩, ⟨0x1000, 128⟩⟩, ⟨4, 0⟩, ⟨2, 0⟩⟩

/-- The layout area that holds it. -/
def layoutCells : Memory := [(1, 0x10), (3, 1), (4, 4), (7, 0x10), (8, 0x80), (10, 4), (14, 2)]

/-- Start-up has ended without a layout; the supply is NORMAL. -/
def bare : State :=
  { State.reset with
    exchange := { cells := layoutCells, status := .zero, layout := none }
    supply := ⟨.normal, 0, 0⟩
    startUp := { State.reset.startUp with phase := .running, part := .unconfigured } }

/-- The layout has been adopted. -/
def ready : State :=
  { bare with
    exchange := { bare.exchange with layout := some layout }
    chains := { ChainUnit.reset with sides := ⟨.filled layout.pool.engine, .filled layout.pool.brake⟩ }
    startUp := { bare.startUp with part := .ready, layoutResult := .ok } }

/-- The same with segment 0 as head segment. -/
def filing : State :=
  { ready with archive := { ready.archive with
    array := (performWrites [] [headerUnit 0 .live 1]).1
    segments := ready.archive.segments.set 0 ⟨.live, 1⟩, head := some ⟨0, 32⟩, segmentCounter := 2 } }

/-- A state while the ride is open. -/
def riding (s : State) : State := { s with rides := { s.rides with state := .riding, number := 1 } }

/-- The status area shows the owners' values. -/
def shown (s : State) : State := { s with exchange := { s.exchange with status := s.currentStatus } }

/-- The first slip of a side's pool. -/
def slipOf : Side → Word
  | .engine => 0x100
  | .brake => 0x1000

/-- The first slip of a side holds these words from its start on and is alone on the side's INBOUND chain. -/
def sending (s : State) (x : Side) (words : List Word) : State :=
  let c := s.chainsOf x
  { s.withChains x { c with owner := c.owner.set 0 .inbound, free := c.free.tail, inbound := [slipOf x] } with
    exchange := s.exchange.writeBytes (slipOf x).toNat (words.flatMap wordBytes) }

/-- The first slip of the engine side is HELD. -/
def holding (s : State) : State :=
  let c := s.chainsOf .engine
  s.withChains .engine { c with owner := c.owner.set 0 .held, free := c.free.tail }

/-- The state after a command; an impossible outcome gives the state before. -/
def after (c : Instr) (s : State) : State :=
  match exec c s with
  | .next t => t
  | .fault _ | .refused _ => s

/-- Monitor `m` with these adopted settings, state and counter. -/
def withMonitor (s : State) (m : MonitorId) (g : Settings) (st : MonitorState) (c : Int) : State :=
  s.setMonitor m { s.monitor m with adopted := some g, state := st, counter := c }

/-- Settings for a host monitor: fail step 3, pass step 1, limits 6 and 4, jump set. -/
def settings : Settings := ⟨true, .emission, 3, 1, 6, 4, true, none, 1, 1, 0, 1⟩

/-- An episode of a monitor. -/
def episode (n : DWord) (m : MonitorId) (c : MonitorClass) (st : EpisodeState) : Episode :=
  ⟨n, m, c, st, 1, 0, 0, 1, 0, 5, false, none, true⟩

/-- An episode in entry `k`. -/
def withEpisode (s : State) (k : Fin 24) (e : Episode) : State :=
  { s with episodes := { s.episodes with table := s.episodes.table.set k (some e), counter := 9 } }

/-- A capture that wants one post frame. -/
def capture : Capture := ⟨.capturing, 1, 12, .emission, .engine, 1, 0, 0, 1, [], [], some 0, none⟩

/-- A slot that captures. -/
def capturing (s : State) : State :=
  { s with snaps := { s.snaps with slots := s.snaps.slots.set 7 (some capture), order := [7] } }

/-- An ONSET record. -/
def onset : Record := ⟨.onset 0 5 6 false false none, .emission, 1, some 12, .engine, 1⟩

/-- A descriptor of a record. -/
def queued (r : Record) (w : Option (Side × Word)) (a : Attempt) : Descriptor := ⟨r, 1, false, 0, w, a⟩

/-- A state whose queue holds these descriptors. -/
def withQueue (s : State) (q : List Descriptor) : State := { s with archive := { s.archive with queue := q } }

/-- The units of the oldest record are under way at the head. -/
def writing (s : State) : State := after .recordWriteGrant s

/-! ## Ill-formed commands -/

theorem test_illFormed_assignedAddress :
    (Instr.unassignedRegisterAccess .engine 0x800C .read).wellFormed = false ∧
      (Instr.unassignedRegisterAccess .brake 0x800C .read).wellFormed = true ∧
      (Instr.unassignedRegisterAccess .brake 0x800B .write).wellFormed = false ∧
      (Instr.unassignedRegisterAccess .engine 0x7FFF .write).wellFormed = false := by decide

theorem test_illFormed_writeFrame :
    (Instr.exchangeMemoryWrite .engine false 0x100 []).wellFormed = false ∧
      (Instr.exchangeMemoryWrite .engine false 0x7FFE [1, 2]).wellFormed = false ∧
      (Instr.exchangeMemoryWrite .engine false 0x7FFE [1]).wellFormed = true := by decide

theorem test_illFormed_readFrame :
    (Instr.statusFieldDeferredWrite .engine (.begins 0x90 0)).wellFormed = false ∧
      (Instr.statusFieldDeferredWrite .engine (.begins 0x90 1)).wellFormed = true := by decide

theorem test_illFormed_verifyFailures :
    (Instr.verifyFailure [0, 0]).wellFormed = false ∧ (Instr.verifyFailure [0, 1]).wellFormed = true ∧
      (Instr.carryVerifyFailure []).wellFormed = false ∧ (Instr.carryVerifyFailure [1]).wellFormed = true := by decide

theorem test_illFormed_refused :
    exec (.unassignedRegisterAccess .engine 0x800C .read) ready = .refused .illFormed ∧
      exec (.exchangeMemoryWrite .engine false 0x100 []) ready = .refused .illFormed ∧
      exec (.statusFieldDeferredWrite .engine (.begins 0x90 0)) ready = .refused .illFormed ∧
      exec (.verifyFailure []) ready = .refused .illFormed ∧
      exec (.carryVerifyFailure [0]) ready = .refused .illFormed := ⟨rfl, rfl, rfl, rfl, rfl⟩

/-! ## One step of every command -/

theorem test_step_takesTheFront : step (ready.withPending [.freeTake .engine, .adopt]) =
    .next (after (.freeTake .engine) (ready.withPending [.adopt])) := rfl

theorem test_inboundAppend : ((after (.inboundAppend .engine 0x100) (holding ready)).chainsOf .engine).inbound = [0x100] ∧
    (after (.inboundAppend .engine 0x101) (holding ready)).chains.misuse.engine = 1 := by decide +kernel

theorem test_freeAppend : ((after (.freeAppend .engine 0x100) (holding ready)).chainsOf .engine).free =
    [0x140, 0x180, 0x1C0, 0x100] := by decide +kernel

theorem test_freeTake : (after (.freeTake .engine) ready).ports.engine.readData = 0x100 ∧
    (after (.freeTake .engine) ready).ports.engine.isLatched .freeLow = true ∧
    (after (.freeTake .brake) ready).ports.brake.isLatched .freeLow = false := by decide +kernel

theorem test_returnTake : (after (.returnTake .engine) ready).ports.engine.readData = 0 := by decide +kernel

theorem test_wrongDirectionAccess :
    (after (.wrongDirectionAccess .brake .freeTake) ready).chains.misuse.brake = 1 ∧
    (after (.wrongDirectionAccess .brake .freeTake) ready).ports.brake.isLatched .misuse = true := by decide +kernel

theorem test_notices :
    (after (.noticeMaskWrite .engine 0xFFFF) (ready.latch .engine .onset)).observe .engine 0x8008 = 4 ∧
    (after (.noticeClear .engine 4) (ready.latch .engine .onset)).ports.engine.flags = 0 := by decide +kernel

theorem test_adopt : (after .adopt bare).exchange.layout = some layout ∧
    (after .adopt bare).startUp.part = .ready := by decide +kernel

theorem test_restart : (after (.restart ⟨0, 0⟩) filing).startUp.cause = .restart ∧
    (after (.restart ⟨0, 0⟩) (withQueue filing [queued onset none .first])).startUp.drain = some 500 := by
  decide +kernel

theorem test_unassignedRegisterAccess :
    ((after (.unassignedRegisterAccess .brake 0x800C .write) ready).monitor 99).state = .failed := by decide +kernel

theorem test_exchangeMemoryWrite :
    (after (.exchangeMemoryWrite .engine false 0xFFE [0x1234, 0x5678]) ready).exchange.readWord 0xFFE = 0x1234 ∧
    (after (.exchangeMemoryWrite .engine false 0xFFE [0x1234, 0x5678]) ready).exchange.readWord 0x1000 = 0 ∧
    (after (.exchangeMemoryWrite .engine false 0xFFE [0x1234, 0x5678]) ready).chains.misuse.engine = 1 := by
  decide +kernel

theorem test_statusFieldDeferredWrite :
    (after .rideClockTick (after (.statusFieldDeferredWrite .brake (.begins 0x90 2)) (shown ready))).exchange.status.rideClock
      = 0 := by decide +kernel

theorem test_verdict :
    ((after .verdict (sending (withMonitor (riding filing) 12 settings .notRun 0) .engine
      [1, 0, 0, 0, 0, 0, 0, 0, 12, 1, 7, 2, 0])).monitor 12).state = .failed := by decide +kernel

theorem test_context :
    (after .context (sending ready .brake [2, 0, 0, 0, 0, 0, 0, 0, 1, 15, 7])).snaps.ring =
      [⟨0, .brake, [(15, 7)]⟩] := by decide +kernel

theorem test_plan :
    ((after .plan (sending ready .engine [5, 0, 0, 0, 0, 0, 0, 0, 0x800, 1])).exchange.readWord 0x108) = 1 := by
  decide +kernel

theorem test_episodeList :
    (after .episodeList (sending ready .engine [6, 0, 0, 0, 0, 0, 0, 0, 0x800, 64])).exchange.readWord 0x106 = 2 ∧
    (after .episodeList (sending ready .engine [6, 0, 0, 0, 0, 0, 0, 0, 0x800, 64])).exchange.readWord 0x10A = 16 := by
  decide +kernel

theorem test_rideOpen :
    (after .rideOpen (sending ready .engine [3, 0, 0, 0, 0, 0, 0, 0, 77, 0])).rides =
      ⟨.riding, 0, 1, 77, ⟨⟨some 20, 0⟩, ⟨none, 0⟩⟩⟩ := by decide +kernel

theorem test_rideClose :
    (after .rideClose (sending (riding filing) .engine [4])).rides.state = .parked ∧
    (after .rideClose (sending (riding filing) .engine [4])).archive.queue.length = 1 := by decide +kernel

theorem test_archiveRead :
    ((after .archiveRead (sending filing .engine
      [7, 0, 0, 0, 0, 0, 0, 0, 0x800, 512, 0, 0, 0, 31, 15, 0])).archive.jobs.engine.map Job.sequence) = some 1 := by
  decide +kernel

theorem test_releasePinned :
    (after .releasePinned (sending filing .engine [8])).archive.pinGeneration = 1 := by decide +kernel

theorem test_archiveWipe :
    (after .archiveWipe (sending filing .engine [9])).intake.wipeWaiting = true ∧
    (after .archiveWipe (sending filing .engine [9])).archive.queue.length = 2 := by decide +kernel

theorem test_unknownKind :
    (after .unknownKind (sending filing .engine [10])).exchange.readWord 0x108 = 10 ∧
    (after .unknownKind (sending filing .engine [10])).chains.misuse.engine = 1 := by decide +kernel

theorem test_captureTimerExpiry :
    ((after (.captureTimerExpiry 7) (capturing filing)).snaps.slots.get 7).map Capture.endCause =
      some (some .truncatedTimeout) := by decide +kernel

theorem test_silenceTimerExpiry :
    ((after (.silenceTimerExpiry .engine) { riding filing with rides :=
      { (riding filing).rides with silence := ⟨⟨some 0, 0⟩, ⟨none, 0⟩⟩ } }).monitor 96).state = .failed := by
  decide +kernel

theorem test_rideClockTick : (after .rideClockTick ready).exchange.status.rideClock = 1 := by decide +kernel

theorem test_recordWriteGrant :
    (writing (withQueue filing [queued onset none .first])).archive.array.readBytes 32 4 = [1, 0, 48, 0] ∧
    (writing (withQueue filing [queued onset none .first])).archive.array.readBytes 72 8 = commitBytes 1 := by
  decide +kernel

theorem test_recordCommit :
    (after .recordCommit (writing (withQueue filing [queued onset none .first]))).archive.head = some ⟨0, 80⟩ := by
  decide +kernel

theorem test_verifyFailure :
    (after (.verifyFailure [1]) (writing (withQueue filing [queued onset none .first]))).archive.queue =
      [queued onset none .retry] ∧
    ((after (.verifyFailure [1]) (writing (withQueue filing [queued onset none .retry]))).archive.segments.get 0).state =
      .worn := by decide +kernel

/-- A segment 1 that holds one pinned SAFETY record. -/
def storedArray : Memory :=
  (performWrites [] (headerUnit 1 .live 2 :: recordWrites 1 32
    (({ queued { onset with cls := .safety } none .first with pinned := true }).bytes filing.snaps.slots))).1

/-- Every segment is LIVE, the head is in segment 0 and segment 1 is being prepared. -/
def preparing : State :=
  { filing with archive := { filing.archive with
    array := storedArray
    segments := .tabulate (fun i => ⟨.live, if i = 0 then 17 else BitVec.ofNat 32 (i.val + 1)⟩)
    segmentCounter := 18, preparation := some ⟨1, 32, []⟩, pinnedBytes := 48 } }

/-- The copy of the record is under way. -/
def carrying : State := after .carryWrite preparing

/-- A read job of the engine side at the start of segment 0, into the window at 0800h. -/
def job : Job := ⟨0x100, 0x800, 512, 31, 15, 0, 1, 32, 0, 0, false, false⟩

/-- A state in which that job runs. -/
def reading (s : State) : State := { s with archive := { s.archive with jobs := ⟨some job, none⟩ } }

/-- One committed record lies in segment 0. -/
def committed : State := after .recordCommit (writing (withQueue filing [queued onset none .first]))

/-- The committed ONSET of the worked example of chapter 11, byte for byte. -/
theorem test_workedExample_onset :
    ({ record := ⟨.onset 61480 (-140) 4 false false none, .safety, 417, some 58, .brake, 1203⟩, sequence := 90000,
       pinned := true, generation := 7, waiting := none, attempt := .first } : Descriptor).bytes filing.snaps.slots =
      [0x01, 0x01, 0x30, 0x00, 0x07, 0x00, 0x00, 0x00, 0x90, 0x5F, 0x01, 0x00, 0xB3, 0x04, 0x00, 0x00,
       0xA1, 0x01, 0x3A, 0x03, 0x02, 0x00, 0x00, 0x00, 0x28, 0xF0, 0x00, 0x00, 0x74, 0xFF, 0x04, 0x00,
       0x00, 0x00, 0x00, 0x00, 0x00, 0x00, 0x00, 0x00, 0x5A, 0xC3, 0x3C, 0xA5, 0x96, 0x69, 0x90, 0x5F] := by
  decide +kernel

theorem test_carryWrite : carrying.archive.array.readBytes 32 2 = [1, 3] := by decide +kernel

theorem test_carryCommit : (after .carryCommit carrying).archive.head = some ⟨0, 80⟩ ∧
    (after .carryCommit carrying).archive.preparation = some ⟨1, 80, []⟩ := by decide +kernel

theorem test_carryVerifyFailure :
    (after (.carryVerifyFailure [1]) carrying).archive.array.readBytes 32 2 = [1, 3] ∧
    (after (.carryVerifyFailure [1]) (after (.carryVerifyFailure [1]) carrying)).archive.preparation =
      some ⟨1, 80, [32]⟩ := by decide +kernel

theorem test_vacate : (after .vacate (after .carryCommit carrying)).archive.segments.get 1 = ⟨.vacant, 2⟩ ∧
    (after .vacate (after .carryCommit carrying)).archive.pinnedBytes = 48 ∧
    (after .vacate preparing).archive = preparing.archive := by decide +kernel

theorem test_scanStopUnitWrite : (after .scanStopUnitWrite { committed with archive := { committed.archive with
      head := some ⟨0, 32⟩, stopUnitMissing := true } }).archive.array.readBytes 32 8 = [0, 0, 0, 0, 0, 0, 0, 0] := by
  decide +kernel

theorem test_readJobStep :
    ((after .readJobStep (reading committed)).archive.jobs.engine.map Job.offset) = some 80 ∧
    (after .readJobStep (reading committed)).exchange.readWord 0x802 = 48 ∧
    (after .readJobStep (after .readJobStep (reading committed))).archive.jobs.engine = none := by decide +kernel

theorem test_lowEntry : (after (.lowEntry ⟨1, 0xFF⟩) (writing (withQueue filing
      [queued onset none .first]))).archive.array.readBytes 32 4 = [1, 0, 0, 0] ∧
    (after (.lowEntry ⟨0, 0⟩) (riding filing)).supply = ⟨.low, 0, 1⟩ := by decide +kernel

theorem test_supplyRise : (after .supplyRise (after (.lowEntry ⟨0, 0⟩) filing)).supply = ⟨.settling, 20, 0⟩ := by
  decide +kernel

theorem test_endOfSettling : (after .endOfSettling { after (.lowEntry ⟨0, 0⟩) (writing (withQueue filing
      [queued onset none .first])) with supply := ⟨.settling, 0, 0⟩ }).archive.array.readBytes 32 4 = [1, 0, 48, 0] := by
  decide +kernel

theorem test_drainTimerExpiry : (after (.drainTimerExpiry 0) { filing with
      startUp := { filing.startUp with part := .restarting, drain := some 0 } }).startUp.phase = .scanning := by
  decide +kernel

theorem test_powerOn : (after (.powerOn ⟨0, 0⟩ 0) filing).startUp = State.reset.startUp := by decide +kernel

theorem test_supplyReset : (after (.supplyReset ⟨0, 0⟩ 0) filing).startUp.phase = .held ∧
    (after (.supplyReaches280V true) (after (.supplyReset ⟨0, 0⟩ 0) filing)).startUp = State.reset.startUp := by
  decide +kernel

theorem test_lineReset : (after (.lineReset ⟨0, 0⟩ 0 true) ready).startUp.cause = .line ∧
    (after (.lineReset ⟨0, 0⟩ 8 true) { State.reset with exchange := ready.exchange }).exchange.cells =
      [(8, 0x80), (10, 4), (14, 2)] := by decide +kernel

theorem test_resetInputReleased :
    (after .resetInputReleased (after (.lineReset ⟨0, 0⟩ 0 false) ready)).startUp.phase = .scanning := by decide +kernel

theorem test_clearingComplete : (after .clearingComplete State.reset).startUp.phase = .scanning ∧
    (after .clearingComplete State.reset).observe .engine 0x80 = 1 := by decide +kernel

theorem test_startUpEnd : (after .startUpEnd (after .clearingComplete State.reset)).startUp.part = .unconfigured ∧
    (after .startUpEnd { after .clearingComplete State.reset with archive := committed.archive }).archive.head =
      some ⟨0, 80⟩ := by decide +kernel

/-! ## States and operands that meet the hypotheses of the statements

Where a statement has several clauses, its witness has a part for each, at the boundary values of the clause. -/

theorem test_witness_StepTakesTheFront :
    (ready.withPending [.adopt, .verdict]).pending = .adopt :: [.verdict] ∧ ready.pending = [] := ⟨rfl, rfl⟩

theorem test_witness_WellFormedCommandsComplete :
    (Instr.exchangeMemoryWrite .engine false 0x7FFE [1]).wellFormed = true ∧
    (Instr.exchangeMemoryWrite .engine false 0x7FFE [1, 2]).wellFormed = false ∧
    exec .adopt bare = .next (after .adopt bare) := ⟨by decide, by decide, rfl⟩

/-! ### The invariants -/

theorem partInv_ready : (shown ready).PartInv :=
  ⟨by decide +kernel, by decide +kernel, by decide +kernel, by decide +kernel, by decide +kernel, by decide +kernel⟩

theorem partInv_filing : filing.PartInv :=
  ⟨by decide +kernel, by decide +kernel, by decide +kernel, by decide +kernel, by decide +kernel, by decide +kernel⟩

theorem memoryInv_ready : ready.MemoryInv := by decide +kernel

theorem test_witness_StepsKeepMemory : (ready.withPending [.adopt]).MemoryInv ∧
    step (ready.withPending [.adopt]) = .next (after .adopt (ready.withPending [])) := ⟨by decide +kernel, rfl⟩

theorem test_witness_StepsKeepPart : (ready.withPending [.adopt]).PartInv ∧
    step (ready.withPending [.adopt]) = .next (after .adopt (ready.withPending [])) :=
  ⟨⟨by decide +kernel, by decide +kernel, by decide +kernel, by decide +kernel, by decide +kernel, by decide +kernel⟩,
    rfl⟩

/-- A FAILED monitor at its fail limit, with staged settings. -/
def failedMonitor : Monitor :=
  { Monitor.reset 12 with adopted := some settings, staged := some settings, state := .failed, counter := 6 }

/-- Every monitor is FAILED, monitor 12 has an open episode, and a command waits. -/
def failing : State :=
  withEpisode { ready.withPending [.adopt] with qual := { ready.qual with monitors := .fill 102 failedMonitor } } 3
    (episode 5 12 .emission .active)

theorem failing_monitor (m : MonitorId) : failing.monitor m = failedMonitor := Table.get_fill _ _

theorem settings_inRange : settings.InRange :=
  ⟨by decide, by decide, by decide, by decide, by decide, by decide, by decide, by decide⟩

theorem test_witness_StepsKeepMonitors : failing.MonitorInv ∧
    step failing = .next (after .adopt (failing.withPending [])) := by
  refine ⟨fun m => ?_, rfl⟩
  rw [failing_monitor]
  have h6 : MonitorState.failed.allows settings 6 := ⟨by decide, by decide⟩
  refine ⟨fun g h => ?_, fun h => ?_, fun g h => ?_⟩
  · cases h; exact ⟨settings_inRange, h6⟩
  · cases h
  · cases h; exact ⟨settings_inRange, rfl⟩

theorem failing_table (k : Fin 24) : failing.episodes.table.get k =
    if k = 3 then some (episode 5 12 .emission .active) else none := by
  show ((Table.fill 24 none).set 3 _).get k = _
  rw [Table.get_set, Table.get_fill]

theorem test_witness_StepsKeepEpisodes : failing.PartInv ∧ failing.EpisodeInv ∧
    step failing = .next (after .adopt (failing.withPending [])) := by
  refine ⟨⟨by decide +kernel, by decide +kernel, by decide +kernel, by decide +kernel, by decide +kernel,
    by decide +kernel⟩, ⟨fun j k e f hj hk _ => ?_, fun _ k e h => ?_, fun m h => ?_⟩, rfl⟩
  · rw [failing_table] at hj hk
    split at hj <;> split at hk <;> simp_all
  · rw [failing_monitor]; exact ⟨rfl, rfl⟩
  · rw [failing_monitor]; rfl

/-- The engine side's first slip is on its RETURN chain. -/
def returned : State :=
  let c := ready.chainsOf .engine
  (ready.withChains .engine { c with owner := c.owner.set 0 .returned, free := c.free.tail, ret := [0x100] }).latch
    .engine .returnReady

theorem test_witness_StepsKeepReturnReady : (returned.withPending [.adopt]).ReturnReadyInv ∧
    (returned.chainsOf .engine).ret ≠ [] ∧
    step (returned.withPending [.adopt]) = .next (after .adopt (returned.withPending [])) := by
  refine ⟨fun x => ?_, by decide +kernel, rfl⟩
  cases x <;> decide +kernel

theorem test_witness_StepsKeepStatus : ((shown ready).withPending [.rideClockTick]).PartInv ∧
    ((shown ready).withPending [.rideClockTick]).StatusInv ∧
    step ((shown ready).withPending [.rideClockTick]) =
      .next (after .rideClockTick ((shown ready).withPending [])) :=
  ⟨⟨by decide +kernel, by decide +kernel, by decide +kernel, by decide +kernel, by decide +kernel, by decide +kernel⟩,
    fun _ => rfl, rfl⟩

theorem test_witness_StepsKeepQueue :
    ((withQueue filing (List.replicate 44 (queued onset none .first))).withPending [.adopt]).QueueInv ∧
    ({ ready.withPending [.adopt] with archive := { ready.archive with state := .stopped } } : State).QueueInv ∧
    step (ready.withPending [.adopt]) = .next (after .adopt (ready.withPending [])) :=
  ⟨⟨by decide +kernel, by decide +kernel, by decide +kernel, by decide +kernel, by decide +kernel⟩,
    ⟨by decide +kernel, by decide +kernel, by decide +kernel, by decide +kernel, by decide +kernel⟩, rfl⟩

/-- The layout with four slips on each side. -/
def smallLayout : Layout := { layout with pool := ⟨⟨0x100, 4⟩, ⟨0x1000, 4⟩⟩ }

/-- Of the engine side's slips the first runs a read job, the second is on INBOUND, the third on RETURN and the last is
HELD. -/
def mixed : State :=
  { ready with
    pending := [.returnTake .engine]
    exchange := { ready.exchange with layout := some smallLayout }
    chains := { ready.chains with sides :=
      ⟨⟨[.inWork, .inbound, .returned, .held], [], [0x140], [0x180]⟩, .filled smallLayout.pool.brake⟩ }
    archive := { ready.archive with
      jobs := ⟨some ⟨0x100, 0x800, 512, 31, 15, 0, 1, 32, 0, 0, false, false⟩, none⟩ } }

theorem mixed_engine : mixed.ChainsSound .engine ⟨0x100, 4⟩ :=
  ⟨rfl, ⟨.nil, fun _ h => (nomatch h), by decide +kernel⟩,
    ⟨by decide +kernel, fun _ h => ⟨1, by decide, List.mem_singleton.1 h, rfl⟩, by decide +kernel⟩,
    ⟨by decide +kernel, fun _ h => ⟨2, by decide, List.mem_singleton.1 h, rfl⟩, by decide +kernel⟩, by decide +kernel,
    fun _ h => ⟨0, by decide, List.mem_singleton.1 h, rfl⟩⟩

theorem mixed_brake : mixed.ChainsSound .brake ⟨0x1000, 4⟩ := by
  refine ⟨rfl, ⟨by decide +kernel, fun slip h => ?_, by decide +kernel⟩, ⟨.nil, fun _ h => (nomatch h), by decide +kernel⟩,
    ⟨.nil, fun _ h => (nomatch h), by decide +kernel⟩, by decide +kernel, fun _ h => (nomatch h)⟩
  obtain ⟨k, hk, rfl⟩ := List.mem_map.1 h
  exact ⟨k, List.mem_range.1 hk, rfl, List.getElem?_replicate_of_lt (List.mem_range.1 hk)⟩

theorem test_witness_StepsKeepChains : mixed.PartInv ∧ mixed.ChainInv ∧ bare.ChainInv ∧
    step mixed = .next (after (.returnTake .engine) (mixed.withPending [])) := by
  refine ⟨⟨by decide +kernel, by decide +kernel, by decide +kernel, by decide +kernel, by decide +kernel,
    by decide +kernel⟩, ⟨fun l h => ?_, fun l x h => ?_, fun h => nomatch h⟩,
    ⟨fun l h => (nomatch h), fun l x h => (nomatch h), fun _ => ⟨rfl, rfl, rfl⟩⟩, rfl⟩
  · obtain rfl : smallLayout = l := Option.some.inj h
    rfl
  · obtain rfl : smallLayout = l := Option.some.inj h
    cases x
    · exact mixed_engine
    · exact mixed_brake

/-- A record write cut off by a LOW entry. -/
def cutOff : State := after (.lowEntry ⟨1, 0xFF⟩) (writing (withQueue filing [queued onset none .first]))

theorem test_witness_LockoutHoldsTheArray : (cutOff.withPending [.recordWriteGrant]).LockoutInv ∧
    (cutOff.withPending [.recordWriteGrant]).locked = true ∧ cutOff.archive.work.isSome = true ∧
    step (cutOff.withPending [.recordWriteGrant]) = .next (after .recordWriteGrant (cutOff.withPending [])) := by
  refine ⟨fun _ w h => ?_, by decide +kernel, by decide +kernel, rfl⟩
  have hw : cutOff.archive.work.map Work.suspended = some true := by decide +kernel
  have h' : cutOff.archive.work = some w := h
  rw [h'] at hw
  exact Option.some.inj hw

/-! ### Chains and notices -/

/-- The last slip of the engine side is HELD; its silence timer is as given. -/
def lastHeld (t : SilenceTimer) : State :=
  let c := ready.chainsOf .engine
  { ready.withChains .engine { c with owner := c.owner.set 3 .held, free := c.free.dropLast } with
    rides := { ready.rides with silence := ready.rides.silence.set .engine t } }

theorem test_witness_AppendsAccepted :
    ((holding ready).quiet ∧ (holding ready).startUp.part = .ready ∧
      (holding ready).SlipAt .engine 0x100 layout 0 ∧ ((holding ready).chainsOf .engine).owner[0]? = some .held ∧
      ((holding ready).rides.silence.get .engine).remaining = none) ∧
    ((lastHeld ⟨some 0, 0⟩).quiet ∧ (lastHeld ⟨some 0, 0⟩).startUp.part = .ready ∧
      (lastHeld ⟨some 0, 0⟩).SlipAt .engine 0x1C0 layout 3 ∧
      ((lastHeld ⟨some 0, 0⟩).chainsOf .engine).owner[3]? = some .held) ∧
    ((lastHeld ⟨some 0, 1⟩).quiet ∧ (lastHeld ⟨some 0, 1⟩).startUp.part = .ready ∧
      (lastHeld ⟨some 0, 1⟩).SlipAt .engine 0x1C0 layout 3 ∧
      ((lastHeld ⟨some 0, 1⟩).chainsOf .engine).owner[3]? = some .held ∧ (lastHeld ⟨some 0, 1⟩).numbersLeft) :=
  ⟨⟨rfl, rfl, ⟨rfl, by decide, rfl⟩, by decide +kernel, rfl⟩,
    ⟨rfl, rfl, ⟨rfl, by decide, rfl⟩, by decide +kernel⟩,
    ⟨rfl, rfl, ⟨rfl, by decide, rfl⟩, by decide +kernel, by decide⟩⟩

theorem test_witness_WrongAccessesAreMisuse : ready.quiet ∧ ready.numbersLeft ∧
    (¬(ready.startUp.part = .ready ∧ ∃ l k, ready.SlipAt .engine 0x101 l k ∧
      (ready.chainsOf .engine).owner[k]? = some .held)) ∧
    (¬(ready.startUp.part = .ready ∧ ∃ l k, ready.SlipAt .engine 0x100 l k ∧
      (ready.chainsOf .engine).owner[k]? = some .held)) ∧
    (¬(bare.startUp.part = .ready ∧ ∃ l k, bare.SlipAt .engine 0x100 l k ∧
      (bare.chainsOf .engine).owner[k]? = some .held)) ∧
    0x800C < (evenAddress 0x800E).toNat ∧ (evenAddress 0x800D).toNat = 0x800C := by
  refine ⟨rfl, by decide, ?_, ?_, by simp [bare], by decide, by decide⟩
  · rintro ⟨-, l, k, ⟨hl, -, h⟩, -⟩
    obtain rfl : layout = l := Option.some.inj hl
    simp [layout, Sides.get] at h
    omega
  · rintro ⟨-, l, k, ⟨hl, hk, h⟩, ho⟩
    obtain rfl : layout = l := Option.some.inj hl
    have : k = 0 := by simp [layout, Sides.get] at h; omega
    subst this
    exact absurd ho (by decide +kernel)

theorem test_witness_MisuseRule :
    (let s : State := { ready with chains := { ready.chains with misuse := .both 0xFFFF } }
     s.startUp.part = .ready ∧ s.chains.misuse.get .engine = 0xFFFF) ∧
    State.reset.startUp.part = .scanning ∧ bare.startUp.part = .unconfigured ∧
    ({ ready with startUp := { ready.startUp with part := .restarting } } : State).startUp.part = .restarting :=
  ⟨⟨rfl, rfl⟩, rfl, rfl, rfl⟩

theorem test_witness_TakesGiveTheHead :
    (ready.startUp.part = .ready ∧ (ready.chainsOf .engine).free = 0x100 :: [0x140, 0x180, 0x1C0] ∧
      ready.SlipAt .engine 0x100 layout 0 ∧ layout.mark.get .engine ≤ 3 + 1 ∧ 3 < layout.mark.get .engine) ∧
    (returned.startUp.part = .ready ∧ (returned.chainsOf .engine).ret = 0x100 :: [] ∧
      returned.SlipAt .engine 0x100 layout 0) ∧
    (¬(bare.startUp.part = .ready ∨ bare.startUp.part = .restarting)) ∧
    (ready.startUp.part = .ready ∧ (ready.chainsOf .engine).ret = []) :=
  ⟨⟨rfl, by decide +kernel, ⟨rfl, by decide, rfl⟩, by decide, by decide⟩,
    ⟨rfl, by decide +kernel, ⟨rfl, by decide, rfl⟩⟩, by decide, rfl, by decide +kernel⟩

/-- RESETN is held low after a reset. -/
def heldLow (s : State) : State := after (.lineReset ⟨0, 0⟩ 0 false) s

theorem test_witness_NoticesReadsAndStatus :
    ((1 : Word).getLsbD 0 = true ∧ (returned.chainsOf .engine).ret ≠ []) ∧
    State.reset.startUp.phase = .clearing ∧
    (ready.startUp.phase = .running ∧ (heldLow ready).startUp.phase = .held ∧ (0x7FFF : Word).toNat < 0x8000) ∧
    (0xC0 ≤ (0xFE : Word).toNat ∧ (0xFE : Word).toNat < 0x100) ∧
    ((∀ x, (ready.ports.get x).readFrame = none) ∧ ready.archive.sequenceCounter < 2 ^ 32) ∧
    ({ ready with ports := ⟨{ Port.reset with readFrame := some (0x90, 2) }, .reset⟩ } : State).startUp.phase =
      .running :=
  ⟨by decide +kernel, rfl, by decide +kernel, by decide +kernel, ⟨fun x => (by cases x <;> rfl), by decide +kernel⟩, rfl⟩

/-- The status words of the running device, and 0 behind them. -/
theorem test_statusWords :
    let s := shown (withEpisode (riding filing) 3 (episode 5 12 .emission .active))
    [0x80, 0x82, 0x84, 0x8C, 0x8E, 0x94, 0xA0, 0xA2, 0xAC, 0xC0].map (s.observe .brake) =
      [3, 1, 1, 1, 1, 1, 1, 15, 1, 0] := by decide +kernel

/-- While RESETN is low the part is SCANNING: exchange memory is kept, read and written, the part state shows, an ADOPT is
remembered, an append is misuse and the ride clock runs. -/
theorem test_heldLow :
    (heldLow ready).observe .brake 2 = 0x100 ∧ (heldLow ready).observe .engine 0x80 = 1 ∧
    (after (.exchangeMemoryWrite .brake false 0x200 [7]) (heldLow ready)).observe .engine 0x200 = 7 ∧
    (after .adopt (heldLow ready)).startUp.adoptRemembered = true ∧
    (after (.freeAppend .engine 0x100) (heldLow ready)).chains.misuse.engine = 1 ∧
    (after .rideClockTick (heldLow ready)).rides.clock = 1 := by decide +kernel

/-- A supply that fell below 1.50 V brings a POWER_ON reset: what the hold before it had changed is gone. -/
theorem test_supplyReaches_powerOn :
    let t := after (.supplyReaches280V true) (after .adopt (after .rideClockTick (after (.supplyReset ⟨0, 0⟩ 0) ready)))
    t.rides.clock = 0 ∧ t.startUp.adoptRemembered = false ∧ t.startUp.cause = .powerOn ∧ t.startUp.phase = .clearing := by
  decide +kernel

/-- A WRITE frame that begins on the highest address and wraps, its last word cut short, and a READ frame of two
registers: the address is high byte first and even, a word low byte first. -/
theorem test_portFrames :
    frameCommands .engine ⟨0, 0⟩ ⟨[0xC3, 0xFF, 0xFF, 0x34, 0x12, 0x78, 0x56, 0x9A, 0xBC, 1], 0⟩ =
      [.unassignedRegisterAccess .engine 0xFFFE .write, .exchangeMemoryWrite .engine false 0 [0x5678],
        .exchangeMemoryWrite .engine true 2 [0xBC9A]] ∧
    frameCommands .engine ⟨0, 0⟩ ⟨[0x3C, 0x80, 0x04], 2⟩ = [.statusFieldDeferredWrite .engine (.begins 0x8004 2),
      .freeTake .engine, .returnTake .engine, .statusFieldDeferredWrite .engine .ends] ∧
    frameCommands .engine ⟨0, 0⟩ ⟨[0xC3, 0x80, 0x0C, 0x01, 0x6A, 0x0E, 0x6A], 0⟩ =
      [.adopt, .unassignedRegisterAccess .engine 0x800E .write] ∧
    frameCommands .engine ⟨0, 0⟩ ⟨[0x3C, 0x80, 0x04, 1, 2, 3], 1⟩ = [.statusFieldDeferredWrite .engine (.begins 0x8004 1),
      .freeTake .engine, .statusFieldDeferredWrite .engine .ends] ∧
    frameCommands .engine ⟨0, 0⟩ ⟨[0xC3, 0x80, 0x0C, 0x02, 0x6A], 0⟩ = [] ∧
    frameCommands .brake ⟨0, 0⟩ ⟨[0xC3, 0x80, 0x0C, 0x01, 0x6A], 0⟩ = [.unassignedRegisterAccess .brake 0x800C .write] := by
  decide +kernel

/-- The frame before was a misuse; the words of one that wraps are looked at anew. -/
theorem test_wrappedFrame_countsAgain :
    (after (.exchangeMemoryWrite .engine true 2 [0xBC9A]) (after (.exchangeMemoryWrite .engine false 0x1000 [0x5678])
      (after (.exchangeMemoryWrite .engine false 0x1000 [1]) ready))).chains.misuse.engine = 2 := by decide +kernel

theorem test_witness_PortFramesBecomeCommands :
    (.adopt ∈ frameCommands .engine ⟨0, 0⟩ ⟨[0xC3, 0x80, 0x0C, 0x01, 0x6A], 0⟩) ∧
    ((0 : Byte) ≠ 0x3C ∧ (0 : Byte) ≠ 0xC3) ∧ ([7] : List Byte).length ≤ 1 ∧
    ((0x7FFE : Word).toNat < 0x8000 ∧ (0x8000 : Word).toNat = 0x8000) ∧
    ((0x800E : Word).toNat % 2 = 0 ∧ 0x800C < (0x800E : Word).toNat ∧ (0x800C : Word).toNat % 2 = 0) ∧
    (ready.startUp.part = .ready ∧ (ready.chainsOf .engine).free = 0x100 :: [0x140, 0x180, 0x1C0] ∧
      ready.wordOut .engine 0x8004 = 0x100 ∧ (ready.chainsOf .engine).ret = [] ∧ ready.wordOut .engine 0x8006 = 0) ∧
    (returned.startUp.part = .ready ∧ (returned.chainsOf .engine).ret = 0x100 :: [] ∧
      returned.wordOut .engine 0x8006 = 0x100) ∧
    ready.wordOut .engine 2 = 0x100 ∧ ready.wordOut .brake 0x800C = 0 := by decide +kernel

/-! ### Adoption and RESTART -/

/-- A remembered ADOPT at the end of the scan. -/
def remembered (s : State) : State :=
  { s with startUp := { State.reset.startUp with phase := .scanning, adoptRemembered := true } }

theorem test_witness_AdoptionTakesEffect :
    (bare.quiet ∧ bare.startUp.part = .unconfigured ∧ bare.exchange.readLayout.validate = .ok ∧
      bare.exchange.readLayout = layout) ∧
    ((remembered bare).startUp.adoptRemembered = true ∧ (remembered bare).exchange.readLayout.validate = .ok) := by
  decide +kernel

theorem test_witness_LayoutChecks :
    (¬(({ layout with boundary := 0x7100 } : Layout).boundary ≤ 0x7000) ∧ 0x0FFF % 0x100 ≠ 0) ∧
    ({ layout with boundary := 0x7000 } : Layout).boundary % 0x100 = 0 ∧
    ¬(4 ≤ 3 ∧ 3 ≤ 128) ∧ ¬(129 ≤ 128) ∧ layout.pool.brake.base + 64 * 128 ≤ 0x8000 ∧
    ¬(layout.pool.engine.count = 4 ∧ 5 ≤ layout.pool.engine.count) ∧ layout.mark.engine = layout.pool.engine.count ∧
    ¬(2 ≤ 1 ∧ 1 ≤ 255) ∧ layout.limit.engine = 2 ∧ layout.limit.brake = 0 ∧
    (let s : State := { bare with exchange := { bare.exchange with cells := [] } }
     s.quiet ∧ s.startUp.part = .unconfigured ∧ s.exchange.readLayout.validate ≠ .ok) ∧
    ((remembered State.reset).startUp.adoptRemembered = true ∧
      (remembered State.reset).exchange.readLayout.validate ≠ .ok) ∧
    (bare.quiet ∧ bare.startUp.part = .unconfigured ∧ bare.exchange.readLayout.validate = .ok) ∧
    (State.reset.quiet ∧ State.reset.startUp.part = .scanning) ∧
    (ready.quiet ∧ ready.startUp.part = .ready) ∧
    (let s : State := { ready with startUp := { ready.startUp with part := .restarting } }
     s.quiet ∧ s.startUp.part = .restarting) := by decide +kernel

theorem test_witness_RestartBeginsTheDrain :
    let s := capturing (withEpisode (withQueue (riding filing) [queued onset none .first]) 3
      (episode 5 12 .emission .active))
    s.startUp.part = .ready ∧ s.quiet ∧ s.archive.queue ≠ [] ∧ s.archive.state = .running ∧
      s.offersLeft (127 + s.snaps.order.length) := by decide +kernel

/-- A RESTART while PARKED with nothing queued: an open episode, an untracked FAILED monitor or a running capture begins the
drain all the same; outside READY it is ignored. -/
theorem test_witness_RestartBeginsTheDrain_parked :
    (let s := withEpisode filing 3 (episode 5 12 .emission .active)
     s.archive.queue = [] ∧ s.episodes.table.get 3 ≠ none ∧ (after (.restart ⟨0, 0⟩) s).startUp.drain = some 500) ∧
    (let s := filing.setMonitor 12 { failedMonitor with untracked := true }
     s.archive.queue = [] ∧ (s.monitor 12).state = .failed ∧ (s.monitor 12).untracked = true ∧
      (after (.restart ⟨0, 0⟩) s).startUp.drain = some 500) ∧
    (let s := capturing filing
     s.archive.queue = [] ∧ 7 ∈ s.snaps.order ∧ s.snaps.slots.get 7 = some capture ∧
      (after (.restart ⟨0, 0⟩) s).startUp.drain = some 500) ∧
    bare.startUp.part ≠ .ready ∧ State.reset.startUp.part ≠ .ready := by decide +kernel

/-- The drain of a RESTART. -/
def draining (s : State) : State := { s with startUp := { s.startUp with part := .restarting, drain := some 0 } }

/-- A RIDE_CLOSE slip waits for the summary that the queue holds. -/
def closing (a : Attempt) : State :=
  { withQueue filing [queued ⟨.summary 1 false false false 0 0 [], .information, 1, none, .device, 0⟩
      (some (.engine, 0x100)) a] with
    intake := { filing.intake with waiting := [⟨.engine, 0x100, .rideClose, none, none⟩] } }

/-- A write under way, as its item and whether it waits. -/
def underWay (s : State) : Option (WorkItem × Bool) := s.archive.work.map (fun w => (w.item, w.suspended))

/-- A failure to compare is seen in the write under way. -/
def seesFailure (s : State) (flips : List Unit64) : Bool :=
  match s.archive.work with
  | some w => failsToCompare flips && (failedArray w flips s.archive.array).isSome
  | none => false

theorem partInv_draining (a : Attempt) : (draining (writing (closing a))).PartInv := by
  cases a <;> exact ⟨by decide +kernel, by decide +kernel, by decide +kernel, by decide +kernel, by decide +kernel,
    by decide +kernel⟩

theorem test_witness_DrainEndsInTheReset :
    ((draining (writing (closing .first))).startUp.part = .restarting ∧
      (draining (writing (closing .first))).startUp.drain = some 0) ∧
    (filing.PartInv ∧ filing.quiet ∧ filing.startUp.part = .ready ∧ filing.rides.state = .parked ∧
      filing.archive.queue = [] ∧ (∀ k, filing.episodes.table.get k = none) ∧
      (∀ m, (filing.monitor m).state = .failed → (filing.monitor m).untracked = false) ∧ filing.snaps.order = []) ∧
    (∀ a, let s := draining (writing (closing a))
      s.PartInv ∧ s.quiet ∧ s.archive.queue.length = 1 ∧ underWay s = some (.record, false) ∧
      s.archive.preparation = none ∧ s.intake.waiting = [⟨.engine, 0x100, .rideClose, none, none⟩] ∧
      seesFailure s [1] = true) := by
  refine ⟨by decide +kernel, ⟨partInv_filing, rfl, rfl, rfl, rfl, by decide +kernel, by decide +kernel, rfl⟩, fun a => ?_⟩
  refine ⟨partInv_draining a, ?_⟩
  cases a <;> decide +kernel

/-- The commit, and the give-up, that empty the queue of a drain end it, the waiting slip answered before. -/
theorem test_drain_endsAtTheLastFate :
    (let t := after .recordCommit (draining (writing (closing .first)))
     t.startUp.cause = .restart ∧ t.exchange.readWord 0x106 = 1 ∧ t.exchange.readWord 0x108 = 0) ∧
    (let t := after (.verifyFailure [1]) (draining (writing (closing .moved)))
     t.startUp.cause = .restart ∧ t.exchange.readWord 0x106 = 1 ∧ t.exchange.readWord 0x108 = 1) := by decide +kernel

/-- The archive stopped. -/
def stopped (s : State) : State := { s with archive := { s.archive with state := .stopped } }

theorem test_witness_RestartClosesTheRide :
    (let s := capturing (withEpisode (riding filing) 3 (episode 5 12 .emission .active))
     s.startUp.part = .ready ∧ s.quiet ∧ s.rides.state = .riding ∧ s.archive.state = .running ∧
      s.offersLeft (127 + s.snaps.order.length) ∧
      s.archive.queue.length + s.episodes.openCount + s.qual.untrackedFailed.length + s.snaps.order.length < 48 ∧
      s.snaps.slots.get 7 = some capture ∧ capture.phase = .capturing) ∧
    ((stopped filing).startUp.part = .ready ∧ (stopped filing).PartInv ∧ (stopped filing).QueueInv ∧
      (stopped filing).archive.state = .stopped) :=
  ⟨by decide +kernel, rfl, ⟨by decide +kernel, by decide +kernel, by decide +kernel, by decide +kernel,
    by decide +kernel, by decide +kernel⟩, ⟨by decide +kernel, by decide +kernel, by decide +kernel, by decide +kernel,
    by decide +kernel⟩, rfl⟩

/-- A RESTART while RIDING files the CLOSE, the SNAPSHOT and the summary flagged restart. -/
theorem test_restart_riding :
    (after (.restart ⟨0, 0⟩) (capturing (withEpisode (riding filing) 3 (episode 5 12 .emission .active)))).archive.queue.map
      (fun d => (d.record.body.kind, d.record.ride)) = [(.close, 1), (.snapshot, 1), (.summary, 1)] := by decide +kernel

/-! ### Exchange memory -/

theorem test_witness_WritesBeforeAdoption :
    ((shown bare).quiet ∧ (shown bare).StatusInv ∧ (shown bare).MemoryInv ∧
      (shown bare).exchange.layout = none ∧ (shown bare).startUp.phase ≠ .clearing ∧
      (Instr.exchangeMemoryWrite .brake false 0x7E (List.replicate 66 1)).wellFormed = true) ∧
    (State.reset.quiet ∧ State.reset.StatusInv ∧ State.reset.MemoryInv ∧
      State.reset.exchange.layout = none ∧ State.reset.startUp.phase = .clearing) :=
  ⟨⟨rfl, fun _ => rfl, by decide +kernel, rfl, by decide, by decide⟩,
    ⟨rfl, fun h => absurd h (by decide), by decide +kernel, rfl, rfl⟩⟩

theorem test_witness_WritesAfterAdoption :
    (ready.quiet ∧ ready.numbersLeft ∧ ready.MemoryInv ∧ ready.startUp.phase ≠ .clearing ∧
      ready.exchange.layout = some layout ∧ 0x100 ≤ layout.boundary ∧
      (Instr.exchangeMemoryWrite .engine false 0x7E [1, 2]).wellFormed = true) ∧
    ((0x7E < 0x80 ∨ (0x100 ≤ 0x7E ∧ 0x7E < layout.boundary)) ∧
      ¬(0x80 < 0x80 ∨ (0x100 ≤ 0x80 ∧ 0x80 < layout.boundary)) ∧
      (0xFFE < 0x80 ∨ (0x100 ≤ 0xFFE ∧ 0xFFE < layout.boundary)) ∧
      ¬(0x1000 < 0x80 ∨ (0x100 ≤ 0x1000 ∧ 0x1000 < layout.boundary))) ∧
    (¬(layout.boundary ≤ 0xFFE) ∧ layout.boundary ≤ 0x1000 ∧ 0x7FFE < 0x8000) ∧
    (ready.ports.get .engine).frameMisused = false ∧
    ((after (.exchangeMemoryWrite .engine false 0x7E [1, 2]) ready).ports.get .engine).frameMisused = true :=
  ⟨⟨rfl, by decide, memoryInv_ready, by decide, rfl, by decide, by decide⟩, by decide, by decide, rfl,
    by decide +kernel⟩

/-- A word the side may not write, then one it may: the second is written, and the one misuse gives its FAIL and latches
MISUSE. -/
theorem test_misusedFrame :
    let t := after (.exchangeMemoryWrite .engine false 0x80 (List.replicate 64 3 ++ [7])) ready
    t.exchange.readWord 0x100 = 7 ∧ t.chains.misuse.engine = 1 ∧ t.ports.engine.isLatched .misuse = true ∧
      (t.monitor 98).state = .failed := by decide +kernel

/-- The running device with a read frame of the engine side over this span. -/
def framed (start : Word) (words : Nat) : State :=
  { shown ready with ports := ⟨{ (shown ready).ports.engine with readFrame := some (start, words) }, .reset⟩ }

/-- The frame covers a word, as the statement says it. -/
def coversAt (start : Word) (n a k : Nat) : Prop := k < n ∧ (start.toNat + 2 * k) % 65536 = a

theorem test_witness_ReadFramesHoldFieldsOff :
    (1 ≤ 1 ∧ (shown ready).StatusInv ∧
      ((shown ready).ports.get .engine).readFrame = none) ∧
    ((framed 0x90 2).startUp.phase = .running ∧ ((framed 0x90 2).ports.get .engine).readFrame = some (0x90, 2) ∧
      coversAt 0x90 2 0x90 0 ∧ coversAt 0x90 2 0x92 1) ∧
    (((framed 0x92 32768).ports.get .engine).readFrame = some (0x92, 32768) ∧ coversAt 0x92 32768 0x92 0 ∧
      coversAt 0x92 32768 0x90 32767) ∧
    (coversAt 0xA8 2 0xA8 0 ∧ coversAt 0xA8 2 0xAA 1 ∧ coversAt 0xAE 32768 0xAE 0 ∧ coversAt 0xAE 32768 0xAC 32767) ∧
    (∀ x, ((shown ready).ports.get x).readFrame = none) ∧ (shown ready).archive.sequenceCounter < 2 ^ 32 :=
  ⟨⟨by decide, fun _ => rfl, rfl⟩, ⟨rfl, rfl, ⟨by decide, rfl⟩, ⟨by decide, rfl⟩⟩,
    ⟨rfl, ⟨by decide, rfl⟩, ⟨by decide, rfl⟩⟩,
    ⟨⟨by decide, rfl⟩, ⟨by decide, rfl⟩, ⟨by decide, rfl⟩, ⟨by decide, rfl⟩⟩, fun x => (by cases x <;> rfl), by decide⟩

/-- A read frame of 32,768 words from a field's high word on wraps and covers the field; one of a word less does not. -/
theorem test_readFrame_wraps :
    (after .rideClockTick (framed 0x92 32768)).exchange.status.rideClock = 0 ∧
    (after .rideClockTick (framed 0x92 32767)).exchange.status.rideClock = 1 ∧
    (after .rideClockTick (framed 0xFFFE 74)).exchange.status.rideClock = 1 ∧
    (after .rideClockTick (framed 0xFFFE 75)).exchange.status.rideClock = 0 := by decide +kernel

/-! ### Intake -/

theorem test_witness_IntakeChoice :
    (bare.startUp.part ≠ .ready ∧ (bare.chainsOf .engine).inbound = [] ∧ (bare.chainsOf .brake).inbound = []) ∧
    (let s := sending ready .engine [1]
     s.startUp.part = .ready ∧ (s.chainsOf .engine).inbound = 0x100 :: [] ∧ (s.chainsOf .brake).inbound = []) ∧
    (let s := sending ready .brake [1]
     (s.chainsOf .engine).inbound = [] ∧ (s.chainsOf .brake).inbound = 0x1000 :: []) ∧
    (let s := sending (sending ready .brake [1]) .engine [1]
     (s.chainsOf .engine).inbound = 0x100 :: [] ∧ (s.chainsOf .brake).inbound = 0x1000 :: [] ∧
      s.intake.pointer = .engine ∧ ({ s.intake with pointer := .brake } : Intake).pointer = .brake) ∧
    ready.nextSlip = none ∧
    ((sending ready .engine [2]).nextSlip = some (.engine, 0x100) ∧
      (sending ready .engine [2]).slipWord 0x100 0 ≠ 1) ∧
    ((sending ready .engine [9]).nextSlip = some (.engine, 0x100) ∧
      (sending ready .engine [9]).slipWord 0x100 0 = 9) := by decide +kernel

theorem test_witness_AnswersFillTheHeader : ready.MemoryInv ∧ slipFits 0x100 ∧ slipFits 0x7FC0 :=
  ⟨memoryInv_ready, by decide, by decide⟩

/-- A VERDICT slip of the engine side: monitor id, verdict, value, repeats, time present, time. -/
def verdictSlip (id code repeats timed : Word) : State :=
  sending (withMonitor (riding filing) 12 settings .notRun 0) .engine [1, 0, 0, 0, 0, 0, 0, 0, id, code, 7, repeats, timed]

theorem test_witness_VerdictChecks :
    (verdictSlip 102 1 1 0).verdictFields .engine 0x100 = .error 1 ∧
    (verdictSlip 96 1 1 0).verdictFields .engine 0x100 = .error 2 ∧
    (verdictSlip 101 1 1 0).verdictFields .engine 0x100 = .error 2 ∧
    (verdictSlip 48 1 1 0).verdictFields .engine 0x100 = .error 3 ∧
    (verdictSlip 47 0 1 0).verdictFields .engine 0x100 = .error 4 ∧
    (verdictSlip 47 3 1 0).verdictFields .engine 0x100 = .error 4 ∧
    (verdictSlip 47 2 0 0).verdictFields .engine 0x100 = .error 5 ∧
    (verdictSlip 47 1 9 0).verdictFields .engine 0x100 = .error 5 ∧
    (verdictSlip 47 1 8 2).verdictFields .engine 0x100 = .error 6 ∧
    (verdictSlip 47 2 8 1).verdictFields .engine 0x100 = .ok (47, ⟨.pass, 7, some 0⟩, 8) ∧
    (verdictSlip 0 1 1 0).verdictFields .engine 0x100 = .ok (0, ⟨.fail, 7, none⟩, 1) :=
  ⟨rfl, rfl, rfl, rfl, rfl, rfl, rfl, rfl, rfl, rfl, rfl⟩

theorem test_witness_VerdictCompletes : (verdictSlip 12 1 8 0).serves .engine 0x100 .verdict ∧
    (verdictSlip 12 1 8 0).verdictFields .engine 0x100 = .ok (12, ⟨.fail, 7, none⟩, 8) ∧ (verdictSlip 12 1 8 0).quiet ∧
    (verdictSlip 12 1 8 0).offersLeft 24 := ⟨by decide +kernel, rfl, rfl, by decide⟩

/-- A CONTEXT slip of the engine side with a count and channels, all values 7. -/
def contextSlip (n : Word) (channels : List Word) : State :=
  sending (capturing filing) .engine ([2, 0, 0, 0, 0, 0, 0, 0, n] ++ channels.flatMap (fun c => [c, 7]))

theorem test_witness_UnknownKindReturns :
    ((sending filing .engine [0]).nextSlip = some (.engine, 0x100) ∧ (sending filing .engine [0]).quiet ∧
      (sending filing .engine [0]).numbersLeft ∧ (sending filing .engine [0]).slipWord 0x100 0 = 0) ∧
    ((sending filing .brake [10]).nextSlip = some (.brake, 0x1000) ∧
      9 < ((sending filing .brake [10]).slipWord 0x1000 0).toNat) ∧
    ((verdictSlip 102 1 1 0).nextSlip = some (.engine, 0x100) ∧ (verdictSlip 102 1 1 0).slipWord 0x100 0 = 1 ∧
      (verdictSlip 102 1 1 0).verdictFields .engine 0x100 = .error 1) ∧
    ((contextSlip 0 []).nextSlip = some (.engine, 0x100) ∧ (contextSlip 0 []).slipWord 0x100 0 = 2 ∧
      (contextSlip 0 []).contextFrame .engine 0x100 = .error 1) ∧
    (contextSlip 7 []).contextFrame .engine 0x100 = .error 1 ∧
    (contextSlip 1 [16]).contextFrame .engine 0x100 = .error 2 ∧
    (contextSlip 6 [0, 1, 2, 3, 15, 16]).contextFrame .engine 0x100 = .error 2 :=
  ⟨by decide +kernel, by decide +kernel, ⟨by decide +kernel, rfl, rfl⟩, ⟨by decide +kernel, rfl, rfl⟩, rfl, rfl, rfl⟩

theorem test_witness_ContextCompletes :
    (let s := contextSlip 6 [0, 1, 2, 3, 15, 15]
     s.serves .engine 0x100 .context ∧ s.quiet ∧ s.offersLeft s.snaps.order.length ∧ 1 ≤ (s.slipWord 0x100 16).toNat ∧
      (s.slipWord 0x100 16).toNat = 6 ∧ ∀ i : Fin 6, (s.slipWord 0x100 (18 + 4 * i.val)).toNat ≤ 15) ∧
    (let s := contextSlip 1 [15]
     s.serves .engine 0x100 .context ∧ (s.slipWord 0x100 16).toNat = 1 ∧ (s.slipWord 0x100 18).toNat ≤ 15) ∧
    filing.snaps.slots.get 7 = none ∧
    ((capturing filing).snaps.slots.get 7 = some capture ∧ capture.phase = .capturing ∧
      capture.post.length + 1 = capture.postWanted ∧ (capturing filing).offersLeft 1) ∧
    ({ capture with postWanted := 2 } : Capture).post.length + 1 < 2 ∧
    ({ capture with phase := .filing } : Capture).phase ≠ .capturing := by decide +kernel

/-- The two partitions, the ends of a pool, and the four lengths at the boundary of each check. -/
theorem test_witness_WindowAndTableChecks :
    (1 ≤ (layout.pool.get .engine).count ∧ layout.pool.get .engine = ⟨0x100, 4⟩ ∧ layout.boundary = 0x1000) ∧
    layout.checkWindow .engine 0x801 64 = .error 1 ∧ layout.checkWindow .engine 0x800 62 = .error 2 ∧
    layout.checkWindow .engine 0x800 65 = .error 2 ∧ layout.checkWindow .brake 0x3000 4098 = .error 2 ∧
    layout.checkWindow .engine 0xFE 64 = .error 3 ∧ layout.checkWindow .brake 0xFFE 64 = .error 3 ∧
    layout.checkWindow .engine 0xFC2 64 = .error 4 ∧ layout.checkWindow .engine 0x1FE 64 = .error 5 ∧
    layout.checkWindow .engine 0x200 64 = .ok () ∧ layout.checkWindow .engine 0xFC0 64 = .ok () ∧
    layout.checkWindow .brake 0x7000 4096 = .ok () ∧
    layout.checkTable .engine 0x801 1 = .error 1 ∧ layout.checkTable .engine 0x1000 1 = .error 3 ∧
    layout.checkTable .engine 0xFF0 2 = .error 4 ∧ layout.checkTable .engine 0x1F0 1 = .error 5 ∧
    layout.checkTable .engine 0xFF0 1 = .ok () ∧ layout.checkTable .engine 0x800 48 = .ok () :=
  ⟨⟨by decide, rfl, rfl⟩, rfl, rfl, rfl, rfl, rfl, rfl, rfl, rfl, rfl, rfl, rfl, rfl, rfl, rfl, rfl, rfl, rfl⟩

/-- A PLAN slip of the engine side over a table at 0800h. -/
def planSlip (count : Word) : State := sending ready .engine [5, 0, 0, 0, 0, 0, 0, 0, 0x800, count]

theorem test_witness_PlanCompletes :
    ((planSlip 0).serves .engine 0x100 .plan ∧ (planSlip 0).quiet ∧ (planSlip 0).exchange.layout = some layout ∧
      ((planSlip 0).slipWord 0x100 18).toNat < 1 ∧ 48 < ((planSlip 49).slipWord 0x100 18).toNat) ∧
    (1 ≤ ((planSlip 1).slipWord 0x100 18).toNat ∧ ((planSlip 48).slipWord 0x100 18).toNat ≤ 48) ∧
    layout.checkTable .engine 0x800 48 = .ok () ∧ layout.checkTable .engine 0xFF0 1 = .ok () ∧
    layout.checkTable .engine 0xFF0 2 = .error 4 := ⟨by decide +kernel, by decide +kernel, rfl, rfl, rfl⟩

/-- The fields of a table entry, byte by byte. -/
theorem test_planEntry : (ready.exchange.writeBytes 0x800 [12, 1, 3, 64, 2, 63, 5, 0, 0xFF, 3, 40, 4, 7, 9, 9, 9]).planEntry
    0x800 = ⟨12, 1, 3, 64, 2, 63, 5, 0, 255, 3, 40, 4, 7⟩ := by decide +kernel

/-- A plan entry for a monitor, every field at the end of its range. -/
def entry (m sup : Nat) : PlanEntry := ⟨m, 1, 3, 64, 1, 64, 1, 1, sup, 3, 40, 4, 7⟩

theorem test_witness_PlanEntriesTaken :
    ((entry 47 255).monitor < 48 ∧ (entry 47 255).failStep ≤ 64 ∧ 1 ≤ (entry 47 255).passStep ∧
      (entry 47 255).confirmRides ≤ 3 ∧ (entry 47 255).agingRides ≤ 40 ∧ (entry 47 255).preFrames ≤ 4 ∧
      (entry 47 255).postFrames ≤ 7 ∧ ((entry 47 255).suppressor = 255 ∨ (entry 47 255).suppressor ≤ 101)) ∧
    ¬((entry 48 255).monitor < 48) ∧ ¬(102 = 255 ∨ 102 ≤ 101) ∧
    ((12 : MonitorId).val = (entry 12 12).monitor ∧ (12 : MonitorId).val = (entry 12 12).suppressor) ∧
    (96 ≤ (101 : MonitorId).val ∧ (101 : MonitorId).val ≠ 100) ∧
    (ready.qual.monitors.get 47).state ≠ .failed ∧
    ((withMonitor ready 12 settings .failed 6).qual.monitors.get 12).state = .failed ∧
    (∀ g, (ready.qual.monitors.get 47).adopted = some g → g.suppressor = none) := by
  refine ⟨by decide, by decide, by decide, by decide, by decide, by decide +kernel, by decide +kernel, fun g h => ?_⟩
  have hn : (ready.qual.monitors.get 47).adopted = none := by decide +kernel
  rw [hn] at h
  cases h

theorem test_witness_AdoptionAndRideCloseOfMonitors :
    ((Monitor.reset 12).staged = none ∧ failedMonitor.staged = some settings) ∧
    (settings.enable = true ∧ 1 ≤ settings.failLimit ∧ 1 ≤ settings.passLimit ∧
      ({ settings with enable := false } : Settings).enable = false ∧ (Monitor.reset 12).state = .disabled ∧
      (Monitor.reset 96).state = .notRun ∧
      ({ failedMonitor with state := .passed, counter := -5 } : Monitor).state = .passed ∧
      ({ failedMonitor with state := .maturing, counter := 7 } : Monitor).counter > settings.failLimit ∧
      (-5 : Int) < -(settings.passLimit : Int)) ∧
    (failedMonitor.adopted = some settings ∧ failedMonitor.state ≠ .disabled ∧
      ({ failedMonitor with failedThisRide := true, failRides := 15 } : Monitor).failedThisRide = true ∧
      ({ failedMonitor with ran := true, confirmed := true, cleanRides := 255 } : Monitor).ran = true ∧
      failedMonitor.failedThisRide = false ∧ failedMonitor.ran = false ∧ failedMonitor.confirmed = false) := by decide

/-- An EPISODE_LIST slip of the engine side over a window at 0800h. -/
def listSlip (s : State) (length : Word) : State := sending s .engine [6, 0, 0, 0, 0, 0, 0, 0, 0x800, length]

theorem test_witness_EpisodeListCompletes :
    (let s := listSlip (withEpisode ready 3 (episode 5 12 .emission .active)) 512
     s.serves .engine 0x100 .episodeList ∧ s.quiet ∧ s.exchange.layout = some layout ∧
      s.episodes.listed.length = s.episodes.openCount) ∧
    layout.checkWindow .engine 0x800 512 = .ok () ∧ layout.checkWindow .engine 0x801 64 = .error 1 :=
  ⟨by decide +kernel, rfl, rfl⟩

/-- The bytes of an episode entry and of a status entry. -/
theorem test_listEntries :
    (episode 5 12 .emission .active).entryBytes.take 12 = [5, 0, 0, 0, 12, 2, 1, 2, 1, 0, 0xFF, 0] ∧
    ({ failedMonitor with failRides := 2, cleanRides := 7, held := 9 } : Monitor).statusEntry = 0x09070214 := by
  decide +kernel

theorem test_witness_RideOpenCompletes :
    let s := sending (capturing (withEpisode ready 3 (episode 5 12 .emission .active))) .engine [3]
    s.serves .engine 0x100 .rideOpen ∧ s.quiet ∧ s.rides.state = .parked ∧ s.exchange.layout = some layout ∧
      s.offersLeft (126 + s.snaps.order.length) ∧ 7 ∈ s.snaps.order ∧ s.snaps.slots.get 7 = some capture ∧
      capture.phase = .capturing := by decide +kernel

/-- A ride boundary ends a capture TRUNCATED_RIDE. -/
theorem test_rideBoundary_truncates :
    (((after .rideOpen (sending (capturing ready) .engine [3])).snaps.slots.get 7).map Capture.endCause =
      some (some .truncatedRide)) ∧
    (((after .rideClose (sending (capturing (riding filing)) .engine [4])).snaps.slots.get 7).map Capture.endCause =
      some (some .truncatedRide)) := by decide +kernel

/-- An accepted RIDE_CLOSE with this many records queued. -/
def closingFull (n : Nat) : State :=
  sending (withEpisode (withQueue (riding filing) (List.replicate n (queued onset none .first))) 3
    (episode 5 12 .emission .active)) .engine [4]

/-- The summary of a ride close finds no place: 48 records are queued already. -/
theorem test_witness_RideCloseCompletes_full :
    (let s := closingFull 48
     s.serves .engine 0x100 .rideClose ∧ s.quiet ∧ s.rides.state = .riding ∧ s.archive.state = .running ∧
      s.offersLeft (127 + s.snaps.order.length) ∧ s.intake.waiting = [] ∧ s.archive.queue.length = 48) ∧
    (let t := after .rideClose (closingFull 48)
     t.exchange.readWord 0x106 = 1 ∧ t.exchange.readWord 0x108 = 1 ∧ (t.chainsOf .engine).ret = [0x100] ∧
      t.rides.state = .parked) ∧
    (let t := after .rideClose (closingFull 47)
     t.archive.queue.length = 48 ∧ t.intake.waiting = [⟨.engine, 0x100, .rideClose, none, none⟩]) := by decide +kernel

theorem test_witness_RideCloseCompletes :
    (let s := sending (capturing (withEpisode (riding filing) 3 (episode 5 12 .emission .active))) .engine [4]
     s.serves .engine 0x100 .rideClose ∧ s.quiet ∧ s.rides.state = .riding ∧
      s.offersLeft (127 + s.snaps.order.length) ∧ s.archive.state = .running ∧
      s.archive.queue.length + s.episodes.openCount + s.qual.untrackedFailed.length + s.snaps.order.length < 48 ∧
      7 ∈ s.snaps.order ∧ s.snaps.slots.get 7 = some capture) ∧
    (let s := stopped (sending (riding filing) .engine [4])
     s.serves .engine 0x100 .rideClose ∧ s.quiet ∧ s.rides.state = .riding ∧
      s.offersLeft (127 + s.snaps.order.length) ∧ s.archive.state = .stopped ∧ s.intake.waiting = []) := by
  decide +kernel

/-! ### Archive requests -/

/-- An ARCHIVE_READ slip of the engine side, window at 0800h, 512 bytes: cursor, filters. -/
def readSlip (s : State) (q off kinds classes : Word) : State :=
  sending s .engine [7, 0, 0, 0, 0, 0, 0, 0, 0x800, 512, q, 0, off, kinds, classes, 0]

/-- The filters and cursor of a slip. -/
def readFields (s : State) : Nat × Nat × DWord × Nat :=
  ((s.slipWord 0x100 26).toNat, (s.slipWord 0x100 28).toNat, s.slipDword 0x100 20, (s.slipWord 0x100 24).toNat)

theorem test_witness_ArchiveReadStarts :
    (let s := readSlip filing 1 4088 31 15
     s.serves .engine 0x100 .archiveRead ∧ s.quiet ∧ s.exchange.layout = some layout ∧
      readFields s = (31, 15, 1, 4088) ∧ s.archive.jobs.get .engine = none ∧ s.intake.wipeWaiting = false ∧
      s.archive.state = .running ∧ (stopped s).archive.state = .stopped) ∧
    readFields (readSlip filing 0 0 1 1) = (1, 1, 0, 0) ∧ readFields (readSlip filing 0 0 0 1) = (0, 1, 0, 0) ∧
    readFields (readSlip filing 0 0 32 16) = (32, 16, 0, 0) ∧ readFields (readSlip filing 1 24 1 1) = (1, 1, 1, 24) ∧
    readFields (readSlip filing 1 33 1 1) = (1, 1, 1, 33) ∧ readFields (readSlip filing 1 4096 1 1) = (1, 1, 1, 4096) ∧
    layout.checkWindow .engine 0x800 512 = .ok () ∧ layout.checkWindow .engine 0x801 64 = .error 1 ∧
    ((reading filing).archive.jobs.get .engine).isSome = true ∧
    (preparing.archive.segments.get 1 = ⟨.live, 2⟩ ∧ (∀ j, 2 ≤ (preparing.archive.segments.get j).sequence.toNat) ∧
      (∀ j, (preparing.archive.segments.get j).sequence.toNat ≠ 1) ∧
      ∀ j, (preparing.archive.segments.get j).sequence.toNat < 18) :=
  ⟨by decide +kernel, by decide +kernel, by decide +kernel, by decide +kernel, by decide +kernel, by decide +kernel,
    by decide +kernel, rfl, rfl, rfl, by decide +kernel⟩

/-- The last pin generation has been reached. -/
def lastGeneration (s : State) : State := { s with archive := { s.archive with pinGeneration := 0xFFFFFFFF } }

theorem test_witness_ReleaseCompletes :
    (let s := withQueue (sending filing .engine [8]) (List.replicate 47 (queued onset none .first))
     s.serves .engine 0x100 .releasePinned ∧ s.quiet ∧ s.offersLeft 1 ∧ s.rides.state = .parked ∧
      s.archive.state = .running ∧ s.archive.queue.length < 48 ∧ s.archive.pinGeneration.toNat < 0xFFFFFFFF) ∧
    (let s := withQueue (sending filing .engine [8]) (List.replicate 48 (queued onset none .first))
     s.serves .engine 0x100 .releasePinned ∧ 48 ≤ s.archive.queue.length ∧ s.intake.waiting = []) ∧
    (let s := lastGeneration (sending filing .engine [8])
     s.serves .engine 0x100 .releasePinned ∧ s.quiet ∧ s.offersLeft 1 ∧
      s.archive.pinGeneration.toNat = 0xFFFFFFFF) := by decide +kernel

theorem test_witness_WipeCompletes :
    (let s := withQueue (sending filing .engine [9]) (List.replicate 46 (queued onset none .first))
     s.serves .engine 0x100 .archiveWipe ∧ s.quiet ∧ s.rides.state = .parked ∧ s.episodes.openCount = 0 ∧ s.noJobs ∧
      s.intake.wipeWaiting = false ∧ s.archive.state = .running ∧ s.archive.queue.length < 47 ∧ s.offersLeft 2) ∧
    (let s := sending (riding filing) .engine [9]
     s.serves .engine 0x100 .archiveWipe ∧ ¬(s.rides.state = .parked)) ∧
    (let s := sending (withEpisode filing 23 (episode 5 12 .emission .active)) .engine [9]
     s.serves .engine 0x100 .archiveWipe ∧ ¬(s.episodes.openCount = 0)) ∧
    (let s := sending (reading filing) .engine [9]
     s.serves .engine 0x100 .archiveWipe ∧ s.quiet ∧ s.episodes.openCount = 0 ∧ ¬s.noJobs) ∧
    (let s := stopped (sending filing .engine [9])
     s.serves .engine 0x100 .archiveWipe ∧ s.archive.state = .stopped ∧
      ({ s.intake with wipeWaiting := true } : Intake).wipeWaiting = true) := by decide +kernel

/-- An ARCHIVE_WIPE with this many records queued. -/
def wiping (n : Nat) : State := withQueue (sending filing .engine [9]) (List.replicate n (queued onset none .first))

/-- With 47 records queued the marker takes the last place, with 48 both records are dropped. -/
theorem test_witness_WipeCompletes_full :
    ((wiping 47).archive.queue.length = 47 ∧ (wiping 47).offersLeft 2 ∧ (wiping 47).intake.waiting = [] ∧
      (wiping 48).archive.queue.length = 48 ∧ (wiping 48).serves .engine 0x100 .archiveWipe) ∧
    (let t := after .archiveWipe (wiping 47)
     t.archive.queue.length = 48 ∧ t.intake.waiting = [⟨.engine, 0x100, .wipe, none, some .dropped⟩] ∧
      t.intake.wipeWaiting = true) ∧
    (let t := after .archiveWipe (wiping 48)
     t.exchange.readWord 0x106 = 1 ∧ t.exchange.readWord 0x108 = 3 ∧ t.intake.wipeWaiting = false) := by decide +kernel

theorem test_witness_RequestRefusals : filing.quiet ∧
    (let s := sending (riding filing) .engine [8]
     s.serves .engine 0x100 .releasePinned ∧ s.quiet ∧ s.rides.state = .riding) ∧
    (let s := stopped (sending filing .engine [8])
     s.serves .engine 0x100 .releasePinned ∧ s.quiet ∧ s.rides.state = .parked ∧ s.archive.state = .stopped) ∧
    (sending filing .brake [3]).serves .brake 0x1000 .rideOpen ∧
    (sending filing .brake [4]).serves .brake 0x1000 .rideClose ∧
    (sending filing .brake [8]).serves .brake 0x1000 .releasePinned ∧
    (sending filing .brake [9]).serves .brake 0x1000 .archiveWipe ∧
    ((sending (riding filing) .engine [3]).serves .engine 0x100 .rideOpen ∧
      (sending (riding filing) .engine [3]).rides.state = .riding) ∧
    ((sending filing .engine [4]).serves .engine 0x100 .rideClose ∧
      (sending filing .engine [4]).rides.state = .parked) := by decide +kernel

/-! ### Verdicts and episodes -/

theorem test_witness_FailsApplied :
    (let s := withMonitor ready 12 settings .maturing 3
     s.startUp.part = .ready ∧ (s.monitor 12).adopted = some settings ∧ (s.monitor 12).state ≠ .disabled ∧
      settings.suppressor = none ∧ (s.monitor 12).state ≠ .failed ∧ (s.monitor 12).counter + 3 = settings.failLimit) ∧
    (withMonitor ready 12 settings .failed 6).startUp.part = .ready ∧
    ((withMonitor ready 12 settings .failed 6).monitor 12).state = .failed ∧
    ((withMonitor ready 12 settings .passed (-4)).monitor 12).counter + 3 ≤ 0 := by decide +kernel

/-- Monitor 12 has one open episode, and monitor 13 has none. -/
theorem test_witness_FailsApplied_updateEpisode :
    (failing.episodes.table.get 3 = some (episode 5 12 .emission .active) ∧
      ∀ j p, failing.episodes.table.get j = some p → p.monitor = 12 → j = 3) ∧
    (∀ k e, failing.episodes.table.get k = some e → e.monitor ≠ 13) := by
  refine ⟨⟨by decide +kernel, fun j p h _ => ?_⟩, fun k e h => ?_⟩
  · rw [failing_table] at h
    split at h
    · assumption
    · cases h
  · rw [failing_table] at h
    split at h
    · cases h; decide
    · cases h

theorem test_witness_PassesApplied :
    (let s := withMonitor ready 12 settings .failed (-3)
     s.startUp.part = .ready ∧ (s.monitor 12).adopted = some settings ∧ (s.monitor 12).state = .failed ∧
      (s.monitor 12).counter - 1 = -(settings.passLimit : Int) ∧ s.offersLeft 1) ∧
    (let s := withEpisode (withMonitor ready 12 settings .failed (-3)) 3 (episode 5 12 .emission .healing)
     s.startUp.part = .ready ∧ (s.monitor 12).adopted = some settings ∧ (s.monitor 12).state = .failed ∧
      (s.monitor 12).counter - 1 = -(settings.passLimit : Int) ∧ s.offersLeft 1 ∧ s.episodes.entryOf 12 = some 3 ∧
      s.episodes.table.get 3 = some (episode 5 12 .emission .healing)) ∧
    (ready.episodes.entryOf 12 = none ∧ (ready.monitor 12).untracked = false ∧
      ({ failedMonitor with untracked := true } : Monitor).untracked = true) ∧
    ((withMonitor ready 12 settings .failed 1).monitor 12).counter - 1 ≠ -(settings.passLimit : Int) ∧
    ((withMonitor ready 12 settings .maturing 1).monitor 12).state ≠ .failed := by decide +kernel

/-- The heal of a tracked monitor files the CLOSE of its episode, that of an untracked one the untracked CLOSE. -/
theorem test_heal_closes :
    (let s := withEpisode (withMonitor ready 12 settings .failed (-3)) 3 (episode 5 12 .emission .healing)
     (s.takeVerdict 12 ⟨.pass, 0, none⟩).archive.queue.map Descriptor.record =
      [⟨.close .healed false 5 0 0 1 0, .emission, 1, some 12, .engine, 5⟩]) ∧
    (let s := ready.setMonitor 12 { failedMonitor with counter := -3, untracked := true }
     (s.takeVerdict 12 ⟨.pass, 0, none⟩).archive.queue.map Descriptor.record =
      [⟨.close .healed true 0 0 0 0 0, .emission, 0, some 12, .engine, 0⟩]) := by decide +kernel

/-- Settings with monitor 0 as suppressor. -/
def suppressed : Settings := { settings with suppressor := some 0 }

theorem test_witness_VerdictsNotApplied :
    bare.startUp.part ≠ .ready ∧ (ready.startUp.part = .ready ∧ (ready.monitor 47).adopted = none) ∧
    ((withMonitor ready 95 { settings with enable := false } .disabled 0).monitor 95).state = .disabled ∧
    (let s := withMonitor (withMonitor ready 0 settings .failed 6) 12 suppressed .notRun 0
     s.startUp.part = .ready ∧ (s.monitor 12).adopted = some suppressed ∧ (s.monitor 12).state ≠ .disabled ∧
      suppressed.suppressor = some 0 ∧ (s.monitor 0).state = .failed) := by decide +kernel

/-- An episode table without an unused entry; every episode is in this state. -/
def fullTable (st : EpisodeState) : State :=
  { filing with episodes := { filing.episodes with
    table := .tabulate (fun k => some (episode (BitVec.ofNat 32 (k.val + 1)) 12 .emission st)), counter := 25 } }

/-- What an onset of monitor 13 brings to the episode unit. -/
def onset13 : Onset := ⟨13, .emission, 7, none, 6, 1, 1⟩

theorem test_witness_OnsetsOpenEpisodes :
    (filing.offersLeft 3 ∧ filing.episodes.unused = 0 :: (filing.episodes.unused.tail) ∧
      (onset13.preFrames + onset13.postFrames = 0 ∨ 0 < onset13.postFrames)) ∧
    ((fullTable .healing).offersLeft 3 ∧ (fullTable .healing).episodes.unused = [] ∧
      (fullTable .healing).episodes.candidate .emission = some 0 ∧
      (fullTable .healing).episodes.table.get 0 = some (episode 1 12 .emission .healing)) ∧
    ((fullTable .active).offersLeft 3 ∧ (fullTable .active).episodes.unused = [] ∧
      (fullTable .active).episodes.candidate .emission = none) := by decide +kernel

/-- The first `n` slots capture. -/
def busySlots (n : Nat) : Snapshots :=
  { filing.snaps with slots := .tabulate (fun i => if i.val < n then some capture else none) }

theorem test_witness_OnsetsOpenEpisodes_captures :
    ((busySlots 6).slotFor .emission = none ∧ (busySlots 5).slotFor .emission = some 5 ∧
      (busySlots 8).slotFor .safety = none ∧ (busySlots 7).slotFor .safety = some 7) ∧
    ((2 : Nat) < 3 ∧ ((indices 8).filter (fun i => decide ((busySlots 5).slots.get i = none))).length = 3 ∧
      (busySlots 5).slots.get 5 = none ∧ ∀ j, j < 5 → (busySlots 5).slots.get j ≠ none) ∧
    0 < 4 + 0 ∧ 0 < 0 + 1 := by decide +kernel

/-- A capture takes the newest frames at or before the onset as its pre frames; with no post frame it ends at once; and
where no slot is found a miss is counted. -/
theorem test_requestCapture :
    (let frame := fun n : Nat => (⟨BitVec.ofNat 32 n, .engine, []⟩ : Frame)
     let e := { episode 5 12 .emission .active with onsetClock := 3 }
     let s : State := { filing with snaps := { filing.snaps with ring := [frame 1, frame 2, frame 3, frame 4] } }
     ((s.requestCapture 0 e 2 1).snaps.slots.get 0).map (fun c => (c.pre, c.timer, c.phase)) =
        some ([frame 2, frame 3], some 2000, .capturing) ∧
      ((s.requestCapture 0 e 2 0).snaps.slots.get 0).map (fun c => (c.phase, c.endCause)) =
        some (.filing, some .complete)) ∧
    (let s : State := { filing with snaps := busySlots 6 }
     (s.requestCapture 0 (episode 5 12 .emission .active) 2 1).snaps.misses = 1) := by decide +kernel

theorem test_witness_OnsetsOpenEpisodes_preOnly :
    (let o : Onset := { onset13 with preFrames := 2, postFrames := 0 }
     0 < o.preFrames ∧ o.postFrames = 0 ∧ o.monitor.val < 48 ∧
      ((filing.takeOnset o).episodes.table.get 0).map Episode.slot = some (some 0) ∧
      (((stopped filing).takeOnset o).episodes.table.get 0).map Episode.slot = some none) ∧
    (∀ t ∈ [filing.takeOnset onset13, (fullTable .healing).takeOnset onset13],
      (t.ports.get .engine).isLatched .onset = true ∧ (t.ports.get .brake).isLatched .onset = false) := by decide +kernel

/-- Monitor 12 is FAILED and untracked. -/
def untracked : State := filing.setMonitor 12 { failedMonitor with untracked := true }

theorem test_witness_EpisodeOrdersAndCloseRecords :
    ((fullTable .healing).episodes.candidate .emission = some 0) ∧
    ((fullTable .healing).episodes.candidate .drivability = none ∧
      (fullTable .healing).episodes.table.get 23 = some (episode 24 12 .emission .healing)) ∧
    (23 ∈ (fullTable .healing).episodes.byNumber) ∧
    ((fullTable .healing).offersLeft 126 ∧ (fullTable .healing).episodes.unused = [] ∧
      (fullTable .healing).episodes.table.get 0 = some (episode 1 12 .emission .healing)) ∧
    ((fullTable .active).offersLeft 1 ∧ (fullTable .active).episodes.candidate .emission = none) ∧
    ((untracked.monitor 12).untracked = true ∧ (untracked.monitor 12).adopted = some settings ∧
      untracked.episodes.entryOf 12 = none ∧ untracked.qual.untrackedFailed = [12]) ∧
    (let s := sending (withEpisode untracked 3 (episode 5 13 .emission .active)) .engine [3]
     s.quiet ∧ s.offersLeft (127 + s.snaps.order.length) ∧ s.serves .engine 0x100 .rideOpen ∧
      s.rides.state = .parked) ∧
    (let s := sending (withEpisode (riding untracked) 3 (episode 5 13 .emission .active)) .engine [4]
     s.serves .engine 0x100 .rideClose ∧ s.rides.state = .riding) ∧
    (let s := withQueue untracked [queued onset none .first]
     s.startUp.part = .ready ∧ s.archive.state = .running ∧ s.archive.queue ≠ []) := by decide +kernel

/-- A boundary files the CLOSE of the open episode and then the untracked CLOSE. -/
theorem test_boundary_closes :
    (((withEpisode untracked 3 (episode 5 13 .emission .active)).boundaryClose .rideOpen).archive.queue.map
      Descriptor.record) =
      [⟨.close .rideOpen false 5 0 0 1 0, .emission, 1, some 13, .engine, 5⟩,
        ⟨.close .rideOpen true 0 0 0 0 0, .emission, 0, some 12, .engine, 0⟩] := by decide +kernel

/-! ### Timers -/

theorem test_witness_TimersRun :
    (ready.quiet ∧ (heldLow ready).quiet) ∧
    ({ ready with startUp := { ready.startUp with phase := .held } } : State).startUp.phase = .held ∧
    ((capturing filing).quiet ∧ (capturing filing).snaps.slots.get 7 = some capture ∧ capture.timer = some 0 ∧
      capture.phase = .capturing ∧ (capturing filing).offersLeft 1) ∧
    filing.snaps.slots.get 7 = none ∧
    ((lastHeld ⟨some 0, 32767⟩).quiet ∧ ((lastHeld ⟨some 0, 32767⟩).rides.silence.get .engine).remaining = some 0 ∧
      (lastHeld ⟨some 0, 32767⟩).exchange.layout = some layout ∧ (lastHeld ⟨some 0, 32767⟩).numbersLeft) ∧
    (ready.rides.silence.get .brake).remaining ≠ some 0 := by decide +kernel

/-! ### The filing queue and the array -/

/-- Some pinned bytes. -/
def pinned (n : Nat) : State := { filing with archive := { filing.archive with pinnedBytes := n } }

/-- The last archive sequence number has been given. -/
def exhausted : State := { filing with archive := { filing.archive with sequenceCounter := 2 ^ 32 } }

theorem test_witness_OffersAnswered :
    (filing.offersLeft 1 ∧ filing.archive.state = .running ∧
      (withQueue filing (List.replicate 43 (queued onset none .first))).archive.queue.length < 44) ∧
    (withQueue filing (List.replicate 44 (queued onset none .first))).archive.queue.length = 44 ∧
    (({ onset with cls := .safety } : Record).cls = .safety ∧ onset.body.kind = .onset ∧
      (pinned 24528).archive.pinnedBytes + onset.body.length filing.snaps.slots ≤ 24576 ∧
      24576 < (pinned 24529).archive.pinnedBytes + onset.body.length filing.snaps.slots) ∧
    (lastGeneration filing).archive.pinGeneration.toNat = 0xFFFFFFFF ∧
    (¬exhausted.offersLeft 1 ∧ exhausted.archive.state = .running) := by decide +kernel

theorem test_witness_OffersAnswered_leaves :
    (onset.cls ≠ .safety ∧ (filing.offer onset none).2 = true ∧ (filing.offer onset none).1.ports = filing.ports) ∧
    (let s : State := { exhausted with archive := { exhausted.archive with state := .stopped } }
     ¬s.offersLeft 1 ∧ s.archive.state = .stopped ∧ (s.offer onset none).1.archive.storeFails = []) ∧
    (exhausted.offer onset none).1.archive.storeFails = [0] := by decide +kernel

/-- A descriptor whose record ends at the segment end from here. -/
def atHead (offset : Nat) : State :=
  withQueue { filing with archive := { filing.archive with head := some ⟨0, offset⟩ } } [queued onset none .first]

/-- The frames of a slot are being written. -/
def filingSlot : State :=
  writing (withQueue (capturing filing) [queued (capture.record 7) none .first])

/-- The record that is being written is at this attempt, and these segments are WORN already. -/
def failingAt (t : Attempt) (worn : List (Fin 16)) : State :=
  let s := writing (withQueue filing [queued onset none t])
  let table := worn.foldl (fun acc i => acc.set i ⟨.worn, 0⟩) s.archive.segments
  { s with archive := { s.archive with segments := table } }

/-- Every segment is LIVE, the head is at 4,056 in segment 0, and no preparation is pending. -/
def fullRing : State :=
  { preparing with archive := { preparing.archive with
    head := some ⟨0, 4056⟩, preparation := none, queue := [queued onset none .first] } }

theorem test_witness_RecordsWritten :
    ((atHead 4048).quiet ∧ (atHead 4048).archive.queue = queued onset none .first :: [] ∧
      (atHead 4048).archive.head = some ⟨0, 4048⟩ ∧ (atHead 4048).mayWrite = true ∧
      (atHead 4048).archive.stopUnitMissing = false ∧ (atHead 4048).archive.preparation = none ∧
      4048 + (queued onset none .first).length filing.snaps.slots ≤ 4096) ∧
    ((atHead 4056).mayWrite = true ∧ 4096 < 4056 + (queued onset none .first).length filing.snaps.slots ∧
      (atHead 4056).archive.segmentCounter < 2 ^ 32 ∧ (atHead 4056).archive.nextSegment = some 1) ∧
    (fullRing.quiet ∧ fullRing.mayWrite = true ∧ fullRing.archive.stopUnitMissing = false ∧
      fullRing.archive.nextSegment = some 1 ∧ (after .recordWriteGrant fullRing).archive.preparation = some ⟨2, 32, []⟩) ∧
    (let s := { atHead 4056 with archive := { (atHead 4056).archive with segmentCounter := 2 ^ 32 } }
     s.quiet ∧ s.mayWrite = true ∧ 2 ^ 32 ≤ s.archive.segmentCounter ∧ s.startUp.part ≠ .restarting) ∧
    (underWay (writing (atHead 4048)) = some (.record, false) ∧ seesFailure (writing (atHead 4048)) [1] = true ∧
      seesFailure (writing (atHead 4048)) [0, 0, 0, 0, 0, 1] = true) ∧
    ((failingAt .retry []).archive.head = some ⟨0, 32⟩ ∧ underWay (failingAt .retry []) = some (.record, false) ∧
      seesFailure (failingAt .retry []) [1] = true ∧ (failingAt .retry []).archive.state = .running ∧
      (failingAt .retry []).numbersLeft ∧ (failingAt .retry []).archive.nextSegment = some 1 ∧
      (failingAt .retry []).archive.count .worn + 1 < 5) ∧
    (let s := failingAt .retry []
     ({ s.archive with segmentCounter := 2 ^ 32 } : Archive).segmentCounter = 2 ^ 32 ∧
      s.startUp.part ≠ .restarting) ∧
    ((failingAt .retry [1, 2, 3, 4]).archive.count .worn + 1 = 5 ∧
      seesFailure (failingAt .retry [1, 2, 3, 4]) [1] = true ∧
      (failingAt .retry [1, 2, 3, 4]).startUp.part ≠ .restarting) ∧
    (underWay (failingAt .moved []) = some (.record, false) ∧ seesFailure (failingAt .moved []) [1] = true ∧
      (failingAt .moved []).numbersLeft ∧ (failingAt .moved []).startUp.part ≠ .restarting) := by decide +kernel

/-- Monitor 101 gets two FAILs for a fifth WORN mark, and one for an exhausted segment counter. -/
theorem test_archiveStop_fails :
    (((after (.verifyFailure [1]) (failingAt .retry [1, 2, 3, 4])).episodes.table.get 0).map
      (fun e => (e.monitor, e.worst, e.occurrences)) = some (101, 5, 2)) ∧
    (let s := { atHead 4056 with archive := { (atHead 4056).archive with segmentCounter := 2 ^ 32 } }
     ((after .recordWriteGrant s).episodes.table.get 0).map
      (fun e => (e.monitor, e.worst, e.occurrences)) = some (101, 0, 1)) := by decide +kernel

theorem test_witness_RecordsWritten_failedArray :
    ((writing (atHead 4000)).archive.work.map (fun w =>
      let units := w.writes.drop (w.marks + (if w.entry = none then 0 else 2))
      decide (units.length = 7 ∧ (units.map UnitWrite.address).Nodup ∧
        (∀ u ∈ units, u.address % 8 = 0 ∧ u.address < 65536 ∧
          readUnit (writing (atHead 4000)).archive.array u.address = u.new) ∧
        (writing (atHead 4000)).archive.array.wf Config.arrayBytes = true)) = some true) ∧
    (let w : Work := ⟨.record, 0, none, [⟨40, 0, 7⟩, ⟨32, 5, 9⟩], false⟩
     let m := (performWrites [] [(40, 7), (32, 9)]).1
     (failedArray w [1] m).map (fun n => (readUnit n 40, readUnit n 32)) = some (6, 5) ∧
      (failedArray w [0, 1] m).map (fun n => (readUnit n 40, readUnit n 32)) = some (7, 8) ∧
      failedArray w [0, 0, 1] m = none) := by decide +kernel

/-- The second failure marks the head segment WORN and enters the next; the third gives the record up; the fifth WORN
mark stops the archive. -/
theorem test_verifyFailure_later :
    (let t := after (.verifyFailure [1]) (failingAt .retry [])
     t.archive.segments.get 0 = ⟨.worn, 1⟩ ∧ t.archive.head = some ⟨1, 32⟩ ∧
      t.archive.queue.map Descriptor.attempt = [.moved, .first] ∧ (t.monitor 101).state = .failed ∧
      t.archive.array.readBytes 0 2 = [0x94, 0x7E] ∧ t.archive.array.readBytes 4096 2 = [0x31, 0x7E]) ∧
    (let t := after (.verifyFailure [1]) (failingAt .moved [])
     t.archive.recordsDropped = 1 ∧ t.archive.segments.get 0 = ⟨.live, 1⟩ ∧ t.archive.work = none) ∧
    (after (.verifyFailure [1]) (failingAt .retry [1, 2, 3, 4])).archive.state = .stopped := by decide +kernel

/-- A second failure behind which the segment counter is exhausted marks the segment WORN and stops the archive. -/
theorem test_verifyFailure_exhausted :
    let s := failingAt .retry []
    let t := after (.verifyFailure [1]) { s with archive := { s.archive with segmentCounter := 2 ^ 32 } }
    t.archive.state = .stopped ∧ t.archive.segments.get 0 = ⟨.worn, 1⟩ ∧
      t.archive.array.readBytes 0 2 = [0x94, 0x7E] := by decide +kernel

/-- A segment filled to its end by eight summaries and two snapshots of the right kinds and lengths. -/
def fullSegment : Memory :=
  let at' := fun (p kind n : Nat) => [(p, packUnit (BitVec.ofNat 8 kind :: 0 :: leBytes 2 n)),
    (p + n - 8, packUnit (commitBytes 0))]
  (performWrites [] ((List.range 8).flatMap (fun k => at' (32 + 456 * k) 4 456) ++ at' 3680 3 304 ++
    at' 3984 3 112)).1

theorem test_witness_RecordsReadBack :
    ((queued onset none .first).length filing.snaps.slots = 48 ∧ filing.archive.array.wf Config.arrayBytes = true ∧
      4048 + 48 = 4096 ∧ 32 + 48 < 4096) ∧
    (capture.pre.length + capture.post.length ≤ 11 ∧ (List.replicate 102 (0 : DWord)).length = 102) ∧
    ((recordAt committed.archive.array 0 32).map (fun r => (r.length, r.sequence)) = some (48, 1) ∧
      recordAt committed.archive.array 0 80 = none) ∧
    (let w := walkSegment committed.archive.array 0
     w.records.length = 1 ∧ w.endOffset = 80 ∧ w.ended = .stopUnit) ∧
    ((walkSegment cutOff.archive.array 0).ended = .uncommitted ∧ (walkSegment cutOff.archive.array 0).endOffset = 32) ∧
    (let w := walkSegment fullSegment 0
     w.records.length = 10 ∧ w.endOffset = 4096 ∧ w.ended = .segmentEnd) := by decide +kernel

/-- The record of this body is being written, for the first slip of the engine side if a kind of wait is given. -/
def committing (b : Body) (k : Option WaitKind) (summary : Option Fate) : State :=
  let d := queued ⟨b, .information, 1, none, .device, 0⟩ (k.map (fun _ => (.engine, 0x100))) .first
  let intake : Intake := { filing.intake with
    waiting := k.toList.map (fun k => ⟨.engine, 0x100, k, none, summary⟩), wipeWaiting := decide (k = some .wipe) }
  writing { withQueue filing [d] with intake := intake }

theorem test_witness_RecordsCommitted :
    (let s := writing (withQueue filing [queued onset none .first])
     s.quiet ∧ s.archive.head = some ⟨0, 32⟩ ∧ underWay s = some (.record, false) ∧ s.startUp.part ≠ .restarting) ∧
    (underWay filingSlot = some (.record, false) ∧ filingSlot.snaps.slots.get 7 = some capture ∧
      filing.snaps.slots.get 7 = none) ∧
    (underWay (committing (.summary 1 false false false 0 0 []) none none) = some (.record, false) ∧
      underWay (committing (.marker .release 1) (some .release) none) = some (.record, false) ∧
      underWay (committing (.marker .wipe 0) (some .wipe) none) = some (.record, false)) ∧
    (let s := committing (.marker .wipe 0) (some .wipe) (some .dropped)
     s.intake.waiting = [⟨.engine, 0x100, .wipe, none, some .dropped⟩] ∧ s.archive.queue.map Descriptor.waiting =
      [some (.engine, 0x100)]) ∧
    ((writing (closing .first)).intake.waiting = [⟨.engine, 0x100, .rideClose, none, none⟩]) := by decide +kernel

/-- Commits of markers answer the slips that wait for them: a RELEASE with detail 0, a WIPE whose summary was dropped
with detail 2. -/
theorem test_commit_markers :
    (let t := after .recordCommit (committing (.marker .release 1) (some .release) none)
     t.archive.newestRelease = some 1 ∧ t.exchange.readWord 0x106 = 1 ∧ t.exchange.readWord 0x108 = 0) ∧
    (let t := after .recordCommit (committing (.marker .wipe 0) (some .wipe) (some .dropped))
     t.archive.wipeSequence = 1 ∧ t.archive.newestWipe = some 1 ∧ t.exchange.readWord 0x108 = 2 ∧
      t.intake.wipeWaiting = false) ∧
    (let t := after .recordCommit (committing (.marker .wipe 0) (some .wipe) none)
     t.exchange.readWord 0x106 = 0 ∧ t.intake.wipeWaiting = true) := by decide +kernel

/-- A FAIL of the misuse monitor offers an ONSET after the last sequence number, while a record is being written. -/
def stopping : State :=
  let s := writing (withQueue (capturing filing) [queued onset none .first])
  { s with archive := { s.archive with sequenceCounter := 2 ^ 32, jobs := ⟨some job, none⟩ } }

/-- The archive stops, the write under way ends, and one use of the free values is counted. -/
theorem test_archiveStop_underWay :
    let t := after (.wrongDirectionAccess .engine .freeTake) stopping
    t.archive.state = .stopped ∧ t.archive.work = none ∧ t.draws = 1 ∧ t.archive.queue = [] ∧ t.noJobs ∧
      (t.monitor 101).state = .failed ∧ t.archive.recordsDropped = 3 := by decide +kernel

theorem test_witness_ArchiveStops :
    (stopping.archive.jobs.get .engine = some job ∧
      (queued (capture.record 7) none .first).record.body = .snapshot 7 ∧
      (withQueue stopping [queued (capture.record 7) none .first]).archive.queue.length = 1) ∧
    (let fails := fun s : State => ({ s with archive := { s.archive with storeFails := [0, 1] } } : State)
     (fails filing).archive.storeFails = 0 :: [1] ∧ (fails filing).archive.work = none ∧
      underWay (fails stopping) = some (.record, false) ∧ underWay (fails cutOff) = some (.record, true)) ∧
    (stopped filing).archive.state = .stopped := by decide +kernel

/-- The walk of the target has ended: the vacating is next. -/
def vacating : State := after .carryCommit carrying

/-- The header of the vacating is cut off: its target stays LIVE and the preparation pending, and after SETTLING the
header is written again. -/
theorem test_vacating_cutOff :
    let t := after (.lowEntry ⟨0, 0xFF⟩) vacating
    t.archive.segments.get 1 = ⟨.live, 2⟩ ∧ t.archive.preparation = some ⟨1, 80, []⟩ ∧
      t.archive.array.readBytes 4096 4 = [0x52, 0x7E, 0, 0] ∧ (after .vacate t).archive = t.archive ∧
      (after .vacate { t with supply := ⟨.normal, 0, 0⟩ }).archive.segments.get 1 = ⟨.vacant, 2⟩ := by decide +kernel

theorem test_witness_PreparationsRun :
    (preparing.quiet ∧ preparing.archive.head = some ⟨0, 32⟩ ∧ preparing.mayWrite = true ∧
      preparing.archive.stopUnitMissing = false ∧ preparing.archive.preparation = some ⟨1, 32, []⟩ ∧
      (preparing.archive.nextCarry ⟨1, 32, []⟩).map Stored.offset = some 32) ∧
    (vacating.archive.preparation = some ⟨1, 80, []⟩ ∧ vacating.archive.nextCarry ⟨1, 80, []⟩ = none ∧
      vacating.mayWrite = true ∧ vacating.startUp.part ≠ .restarting ∧ vacating.archive.queue = []) ∧
    (let s := { fullRing with archive := { fullRing.archive with preparation := some ⟨1, 80, []⟩ } }
     s.mayWrite = true ∧ s.archive.nextCarry ⟨1, 80, []⟩ = none ∧
      4096 < 4056 + (queued onset none .first).length s.snaps.slots ∧ s.archive.segmentCounter < 2 ^ 32 ∧
      s.archive.nextSegment = some 1 ∧
      ({ s.archive with segmentCounter := 2 ^ 32 } : Archive).segmentCounter = 2 ^ 32) ∧
    (let s := { filing with archive := { filing.archive with stopUnitMissing := true } }
     s.mayWrite = true ∧ s.archive.stopUnitMissing = true ∧ s.archive.head = some ⟨0, 32⟩ ∧ s.quiet) ∧
    (underWay carrying = some (.carry 32 false, false) ∧ carrying.archive.preparation = some ⟨1, 32, []⟩ ∧
      (recordAt carrying.archive.array 1 32).isSome = true ∧ seesFailure carrying [1] = true) ∧
    (underWay (after (.carryVerifyFailure [1]) carrying) = some (.carry 32 true, false) ∧
      seesFailure (after (.carryVerifyFailure [1]) carrying) [0, 0, 0, 0, 0, 0, 1] = true ∧ carrying.numbersLeft) := by
  decide +kernel

theorem test_witness_PreparationsRun_copy :
    (recordAt storedArray 1 32).isSome = true ∧
    Memory.wf Config.arrayBytes [] = true ∧ (recordAt storedArray 1 32).map Stored.length = some 48 ∧
    4048 + 48 = 4096 ∧ (recordAt storedArray 1 32).map (fun r => (r.copyBytes storedArray).getD 1 0 ^^^
      storedArray.read 4129) = some 2 := by decide +kernel

theorem test_witness_ReadJobsStep :
    ((reading committed).quiet ∧ (reading committed).startUp.phase = .running ∧
      (reading committed).archive.writePending = false ∧ (reading committed).archive.jobs.get .engine = some job ∧
      (reading committed).archive.jobs.get .brake = none ∧ committed.archive.liveSegment 1 = some 0 ∧
      (committed.archive.recordsOf 0).map Stored.offset = [32] ∧ job.bytesWritten + 48 ≤ job.windowLength) ∧
    ({ job with lowestRide := 2 } : Job).lowestRide = 2 ∧
    ({ job with bytesWritten := 464 } : Job).bytesWritten + 48 = job.windowLength ∧
    job.windowLength < ({ job with bytesWritten := 465 } : Job).bytesWritten + 48 ∧
    ((committed.archive.recordsOf 0).find? (fun r => decide (80 ≤ r.offset)) = none ∧
      committed.archive.nextLive 1 = none ∧ (committed.archive.walk 0).endOffset = 80) ∧
    preparing.archive.nextLive 2 = some 3 := by decide +kernel

theorem test_witness_ReadJobsStep_turns :
    ((atHead 4048).mayWrite = true ∧ (writing (atHead 4048)).mayWrite = false ∧
      (after (.lowEntry ⟨0, 0⟩) (atHead 4048)).mayWrite = false) ∧
    ({ preparing.archive with stopUnitMissing := true } : Archive).stopUnitMissing = true ∧
    (preparing.archive.preparation = some ⟨1, 32, []⟩ ∧ preparing.archive.nextCarry ⟨1, 32, []⟩ ≠ none) ∧
    (vacating.archive.preparation = some ⟨1, 80, []⟩ ∧ vacating.archive.nextCarry ⟨1, 80, []⟩ = none) ∧
    (filing.archive.queue = [] ∧ filing.archive.preparation = none ∧ filing.archive.stopUnitMissing = false) ∧
    ((reading (atHead 4048)).supply.state = .normal ∧ (reading (atHead 4048)).archive.writePending = true ∧
      ¬(reading (atHead 4048)).noJobs) ∧
    (State.reset.startUp.phase ≠ .running ∧ filing.noJobs) := by decide +kernel

/-- Out of turn a command of the arbiter does nothing: a record waits for the preparation, a read job for the record. -/
theorem test_outOfTurn :
    (let s := withQueue preparing [queued onset none .first]
     after .recordWriteGrant s = s ∧ after .vacate s = s ∧ after .scanStopUnitWrite s = s) ∧
    after .readJobStep (reading (atHead 4048)) = reading (atHead 4048) := by decide +kernel

theorem test_witness_ReadJobsStep_end :
    filing.MemoryInv ∧ slipFits 0x100 ∧ slipFits 0x7FC0 ∧
    ((reading filing).endJob .engine { job with gap := true } .ok 7 4088).exchange.readWord 0x12A = 1 := by decide +kernel

/-- A job whose segment is gone; the head segment is the only LIVE one. -/
def leftBehind (q : DWord) : State :=
  { committed with archive := { committed.archive with
    segments := .set (.fill 16 ⟨.vacant, 0⟩) 0 ⟨.live, 5⟩, segmentCounter := 6
    jobs := ⟨some { job with sequence := q }, none⟩ } }

theorem test_witness_JobsYieldAndMove :
    ((reading filing).archive.jobs.get .engine = some job ∧ filing.archive.jobs.get .engine = none ∧
      (reading filing).MemoryInv ∧ slipFits job.slip) ∧
    ((leftBehind 2).quiet ∧ (leftBehind 2).startUp.phase = .running ∧ (leftBehind 2).archive.writePending = false ∧
      (leftBehind 2).archive.jobs.get .engine = some { job with sequence := 2 } ∧
      (leftBehind 2).archive.jobs.get .brake = none ∧ (leftBehind 2).archive.liveSegment 2 = none ∧
      (leftBehind 2).archive.nextLive 2 = some 5) ∧
    ((leftBehind 9).archive.liveSegment 9 = none ∧ (leftBehind 9).archive.nextLive 9 = none ∧
      (leftBehind 9).archive.segmentCounter < 2 ^ 32) ∧
    ((leftBehind 5).archive.liveSegment 5 = some 0) ∧
    (vacating.archive.preparation = some ⟨1, 80, []⟩ ∧ vacating.mayWrite = true ∧
      vacating.archive.stopUnitMissing = false ∧ vacating.archive.nextCarry ⟨1, 80, []⟩ = none ∧
      vacating.archive.work = none ∧ filing.archive.preparation = none) ∧
    (let s := after .scanStopUnitWrite { vacating with archive := { vacating.archive with stopUnitMissing := true } }
     s.mayWrite = true ∧ s.archive.preparation = some ⟨1, 80, []⟩ ∧
      s.archive.work.map (fun w => (w.suspended, w.writes.length)) = some (false, 1)) := by decide +kernel

/-- A grant makes the job write its control block with part-done set, and a job left behind moves on with gap set. -/
theorem test_jobs_yieldAndMove :
    (let t := after .recordWriteGrant (reading (withQueue filing [queued onset none .first]))
     t.exchange.readWord 0x120 = 1 ∧ t.exchange.readWord 0x124 = 32 ∧ t.exchange.readWord 0x12A = 2) ∧
    ((after .readJobStep (leftBehind 2)).archive.jobs.engine = some { job with sequence := 5, gap := true }) := by
  decide +kernel

/-! ### Supply, resets and start-up -/

/-- An entry with the record behind it, cut off after `n` whole units. -/
def entryCut (n : Nat) : State := after (.lowEntry ⟨n, 0xFF⟩) (writing (atHead 4056))

theorem test_witness_SupplySteps :
    (filing.quiet ∧ filing.numbersLeft ∧ filing.supply.state ≠ .low ∧ filing.rides.state = .parked ∧
      (riding filing).rides.state = .riding) ∧
    (filing.archive.work = none ∧ underWay cutOff = some (.record, true) ∧
      underWay (writing (atHead 4048)) = some (.record, false) ∧
      (writing (atHead 4048)).archive.work.map (fun w => decide (5 < w.writes.length)) = some true) ∧
    (cutOff.supply.state = .low ∧ cutOff.startUp.supplyHold = false) ∧
    (let s := { cutOff with supply := ⟨.settling, 0, 0⟩ }
     s.quiet ∧ s.numbersLeft ∧ s.supply.state = .settling ∧ s.supply.settle = 0 ∧ underWay s = some (.record, true)) ∧
    (vacating.archive.preparation = some ⟨1, 80, []⟩ ∧ vacating.mayWrite = true ∧
      vacating.archive.stopUnitMissing = false ∧ vacating.archive.nextCarry ⟨1, 80, []⟩ = none ∧
      vacating.archive.work = none) ∧
    (let s := after .scanStopUnitWrite { filing with archive := { filing.archive with stopUnitMissing := true } }
     s.archive.work.map (fun w => (w.item, w.writes.length)) = some (.steps, 1)) := by decide +kernel

/-- A cut in the second of three units, and one in units of which two lie at one address. -/
theorem test_witness_SupplySteps_cuts :
    (let ws : List UnitWrite := [⟨40, 1, 7⟩, ⟨32, 5, 9⟩, ⟨65528, 2, 3⟩]
     let m := (performWrites [] [(40, 7), (32, 9), (65528, 3)]).1
     m.wf Config.arrayBytes = true ∧ (ws.map UnitWrite.address).Nodup ∧
      (∀ u ∈ ws, u.address % 8 = 0 ∧ u.address < 65536) ∧
      [40, 32, 65528].map (readUnit (cutWrites 8 1 ws m)) = [7, 13, 2] ∧
      [40, 32, 65528].map (readUnit (stopWrites 1 ws m)) = [7, 5, 2]) ∧
    (let ws : List (Nat × Unit64) := [(32, 4), (40, 7), (32, 9)]
     let made := performWrites [] ws
     (∀ w ∈ ws, w.1 % 8 = 0 ∧ w.1 < 65536) ∧
      [40, 32].map (readUnit (cutWrites 1 2 made.2 made.1)) = [7, 5] ∧
      [40, 32].map (readUnit (cutWrites 0 1 made.2 made.1)) = [0, 4]) := by decide +kernel

theorem test_witness_SupplySteps_entries :
    (let s := writing (atHead 4056)
     s.archive.work.map (fun w => (w.marks, w.front, w.entry.map Entry.headerHeld, decide (2 < w.writes.length))) =
      some (0, 2, some false, true)) ∧
    (let s := after (.verifyFailure [1]) (failingAt .retry [])
     s.archive.work.map (fun w => (w.item, w.marks, w.front, w.suspended, w.writes.length)) =
      some (.steps, 1, 3, false, 3)) ∧
    ((entryCut 1).archive.work.map (fun w => (w.entry.map Entry.headerHeld, w.front, w.suspended)) =
      some (some true, 2, true) ∧ (entryCut 1).archive.entering = some 1 ∧ (entryCut 1).quiet ∧
      (entryCut 1).numbersLeft) := by
  decide +kernel

/-- A cut in the entry behind a WORN header makes the entry alone again. -/
theorem test_cutOff_behindWornHeader :
    (let t := after (.lowEntry ⟨1, 0xFF⟩) (after (.verifyFailure [1]) (failingAt .retry []))
     t.archive.work.map (fun w => (w.marks, w.writes.map UnitWrite.address, w.suspended)) = some (0, [4096, 4128], true) ∧
      t.archive.segments.get 1 = ⟨.vacant, 0⟩ ∧ t.archive.head = some ⟨0, 32⟩) ∧
    (after (.lowEntry ⟨0, 0xFF⟩) (after (.verifyFailure [1]) (failingAt .retry []))).archive.work.map
      (fun w => (w.marks, w.writes.map UnitWrite.address, w.suspended)) = some (1, [0, 4096, 4128], true) := by
  decide +kernel

/-- An entry cut off in its header has changed nothing; cut off in its stop unit it has changed the table and the counter,
its segment does not count yet and holds no record, and the end of SETTLING completes it. -/
theorem test_cutOff_entry :
    ((entryCut 0).archive.segments.get 1 = ⟨.vacant, 0⟩ ∧ (entryCut 0).archive.segmentCounter = 2 ∧
      (entryCut 0).archive.head = some ⟨0, 4056⟩ ∧ (entryCut 0).archive.entering = none) ∧
    ((entryCut 1).archive.segments.get 1 = ⟨.live, 2⟩ ∧ (entryCut 1).archive.segmentCounter = 3 ∧
      (entryCut 1).archive.head = some ⟨0, 4056⟩ ∧ (entryCut 1).archive.count .live = 1 ∧
      ((entryCut 1).archive.walk 1).records.length = 0) ∧
    (∀ n : Fin 2, let t := after .endOfSettling { entryCut n with supply := ⟨.settling, 0, 0⟩ }
      t.archive.segments.get 1 = ⟨.live, 2⟩ ∧ t.archive.segmentCounter = 3 ∧ t.archive.head = some ⟨1, 32⟩ ∧
      t.archive.entering = none ∧ t.archive.count .live = 2 ∧
      t.archive.array.readBytes 4096 4 = [0x31, 0x7E, 0, 0] ∧ t.archive.array.readBytes 4128 2 = [1, 0]) := by
  decide +kernel

/-- A cut-off that falls into a vacating finds the read job to have yielded to it; one that falls into a record does
not. -/
theorem test_vacatingCut_yields :
    (after (.lowEntry ⟨0, 0xFF⟩) (reading vacating)).exchange.readWord 0x12A = 2 ∧
    (after (.restart ⟨0, 0xFF⟩) (reading { vacating with supply := ⟨.normal, 0, 0⟩ })).exchange.readWord 0x12A ≠ 0 ∧
    (after (.lowEntry ⟨0, 0xFF⟩) (reading (writing (atHead 4056)))).exchange.readWord 0x12A = 0 := by decide +kernel

/-- The read job yields to the write that the end of SETTLING resumes. -/
theorem test_resume_yields :
    (after .endOfSettling (reading { cutOff with supply := ⟨.settling, 0, 0⟩ })).exchange.readWord 0x12A = 2 ∧
    (after .endOfSettling (reading { filing with supply := ⟨.settling, 0, 0⟩ })).exchange.readWord 0x12A = 0 := by
  decide +kernel

/-- The entry behind a WORN mark is a grant to which the read job yields. -/
theorem test_leaveWorn_yields :
    (after (.verifyFailure [1]) (reading (failingAt .retry []))).exchange.readWord 0x12A = 2 := by decide +kernel

/-- A SAFETY ONSET with this sequence, stored at the beginning of a segment of this segment sequence. -/
def storedIn (i : Fin 16) (q sequence : DWord) (carried : Bool) : List (Nat × Unit64) :=
  let bytes := ({ queued { onset with cls := .safety } none .first with sequence := sequence, pinned := true } :
    Descriptor).bytes filing.snaps.slots
  headerUnit i .live q :: recordWrites i 32 (if carried then (bytes.set 1 ((bytes.getD 1 0) ||| 2)) else bytes)

/-- The archive of a part that lost its supply during ride 1. -/
def orphaned : Memory := (performWrites [] (storedIn 0 1 1 false)).1

/-- The head segment holds an older record than another segment. -/
def staleHead : Memory := (performWrites [] (storedIn 0 2 5 false ++ storedIn 1 1 9 false)).1

/-- The head segment holds the copy of a record of segment 1. -/
def duplicated : Memory := (performWrites [] (storedIn 0 2 5 true ++ storedIn 1 1 5 false)).1

theorem test_witness_ResetsAndStartUp :
    filing.startUp.supplyHold = false ∧ (filing.startUp.phase ≠ .held ∧ filing.startUp.phase ≠ .clearing ∧ (heldLow filing).startUp.phase = .held) ∧
    State.reset.startUp.phase = .clearing ∧
    (let s := after (.lineReset ⟨0, 0⟩ 8 true) State.reset
     s.startUp.clearingCut = true ∧ s.startUp.phase ≠ .running ∧ s.startUp.phase = .scanning) ∧
    (let s := after (.lineReset ⟨0, 0⟩ 0 false) filing
     s.startUp.resetLow = true ∧ s.startUp.supplyHold = false) ∧
    (let s := after (.supplyReset ⟨0, 0⟩ 0) filing
     s.startUp.supplyHold = true ∧ s.startUp.resetLow = false) ∧
    (let s := after .clearingComplete State.reset
     s.startUp.phase = .scanning ∧ s.startUp.adoptRemembered = false ∧
      (scanArchive s.archive.array).orphanRides = []) ∧
    (let s := after .adopt { after .clearingComplete State.reset with exchange := bare.exchange }
     s.startUp.adoptRemembered = true ∧ s.exchange.readLayout.validate = .ok) ∧
    ((State.reset.MemoryInv) ∧ filing.startUp.cause = .powerOn ∧
      (after (.restart ⟨0, 0⟩) filing).startUp.cause = .restart) ∧
    ((scanArchive orphaned).orphanRides = [1] ∧ (scanArchive orphaned).state = .running ∧
      (scanArchive orphaned).sequenceCounter + 48 ≤ 2 ^ 32) := by decide +kernel

theorem test_witness_ResetsAndStartUp_bothHolds :
    (let s := after (.supplyReset ⟨0, 0⟩ 0) (heldLow filing)
     s.startUp.phase = .held ∧ s.startUp.supplyHold = true ∧ s.startUp.resetLow = true ∧
      (after (.supplyReaches280V true) s).startUp.phase = .held ∧
      (after .resetInputReleased (after (.supplyReaches280V true) s)).startUp.phase = .clearing) ∧
    ((heldLow filing).startUp.phase = .held ∧ (heldLow filing).startUp.supplyHold = false ∧
      (after (.lineReset ⟨0, 0⟩ 0 true) (heldLow filing)).startUp.phase = .scanning) ∧
    (filing.startUp.resetLow = false ∧ filing.startUp.supplyHold = false) := by decide +kernel

/-- The scan of an archive with an orphan ride counts monitor 12 as failed in it and files its summary. -/
theorem test_startUpEnd_orphan :
    let s := after .clearingComplete State.reset
    let t := after .startUpEnd { s with archive := { s.archive with array := orphaned } }
    (t.monitor 12).failRides = 1 ∧ t.rides.number = 1 ∧ t.episodes.counter = 2 ∧ t.archive.head = some ⟨0, 80⟩ ∧
      t.archive.queue.map (fun d => (d.record.body.kind, d.record.ride)) = [(.summary, 1)] ∧
      t.startUp.orphanRides = 1 := by decide +kernel

/-- A head segment whose record is older than one in another segment: the head is put before it. -/
theorem test_scan_staleHead :
    (scanArchive staleHead).head = some ⟨0, 32⟩ ∧ (scanArchive staleHead).stopUnitMissing = true ∧
      (scanArchive staleHead).sequenceCounter = 10 := by decide +kernel

/-- The same sequence in two segments: the one in the segment of the lower sequence is disregarded, and the preparation
of that segment is resumed. -/
theorem test_scan_duplicate :
    (scanArchive duplicated).disregarded = [(1, 32)] ∧ (scanArchive duplicated).preparation = some ⟨1, 32, []⟩ ∧
      (scanArchive duplicated).pinnedBytes = 48 := by decide +kernel

theorem test_witness_ScanRebuilds :
    (∀ i, ((scanArchive []).segments.get i).state ≠ .live) ∧
    (((scanArchive staleHead).segments.get 0 = ⟨.live, 2⟩ ∧ (scanArchive staleHead).segments.get 1 = ⟨.live, 1⟩) ∧
      (walkSegment staleHead 0).records.map Stored.sequence = [5] ∧
      (walkSegment staleHead 1).records.map (fun r => (r.sequence, r.carried)) = [(9, false)]) ∧
    ((scanArchive orphaned).segments.get 0 = ⟨.live, 1⟩ ∧ (walkSegment orphaned 0).records.map Stored.offset = [32]) ∧
    ((1 : Word) ∈ (scanArchive orphaned).orphanRides) := by decide +kernel

/-- Headers of each state code, and of none. -/
theorem test_witness_ScanRebuilds_headers :
    let m : Memory := [(0, 0x31), (1, 0x7E), (4, 9), (4096, 0x52), (4097, 0x7E), (4100, 8), (8192, 0x94), (8193, 0x7E),
      (8199, 1), (12288, 0x31), (12292, 4)]
    [0, 1, 2, 3].map (readHeader m) = [⟨.live, 9⟩, ⟨.vacant, 8⟩, ⟨.worn, 0x1000000⟩, ⟨.vacant, 0⟩] := by decide +kernel

/-- The fields that the scan reads in a body. -/
theorem test_witness_ScanRebuilds_fields :
    let r : Stored := ⟨1, 32, .marker, 40, false, false, 0, 1, 0, 1, 255, 0⟩
    let m : Memory := [(4152, 2), (4156, 3), (4159, 2)]
    r.isMarker m .release = true ∧ r.isMarker m .wipe = false ∧ r.markerGeneration m = 0x2000003 ∧
      r.parked m = true ∧ r.statusEntry [(4172, 5)] 1 = [5, 0, 0, 0] := by decide +kernel

end Sys2Proof.Tests
end

section
/-! The qualification unit under the operations of the other blocks: offers, fates, captures, closes, yields and
archive stops leave it as it is, and a reset puts it at its reset value. -/

namespace Sys2Proof.Machine

/-- A fold of steps that leave the qualification unit leaves it. -/
theorem State.foldl_qual {α : Type} {f : State → α → State} (hf : ∀ s a, (f s a).qual = s.qual) :
    ∀ (l : List α) (s : State), (l.foldl f s).qual = s.qual
  | [], _ => rfl
  | a :: rest, s => (State.foldl_qual hf rest (f s a)).trans (hf s a)

/-! ## Slips, fates and the archive stop -/

@[simp] theorem State.moveToReturn_qual (s : State) (x : Side) (slip : Word) :
    (s.moveToReturn x slip).qual = s.qual := by
  unfold State.moveToReturn
  split <;> simp

@[simp] theorem State.answer_qual (s : State) (x : Side) (slip : Word) (code : ResultCode) (detail progress : Word) :
    (s.answer x slip code detail progress).qual = s.qual := by simp [State.answer]

@[simp] theorem State.settleWaiting_qual (s : State) (w : Waiting) : (s.settleWaiting w).qual = s.qual := by
  unfold State.settleWaiting
  split <;> simp

@[simp] theorem State.reportFate_qual (s : State) (kind : RecordKind) (slip : Option (Side × Word)) (f : Fate) :
    (s.reportFate kind slip f).qual = s.qual := by
  unfold State.reportFate
  split
  · rfl
  · dsimp only
    split <;> simp

@[simp] theorem State.freeSlot_qual (s : State) (i : Fin 8) : (s.freeSlot i).qual = s.qual := by
  unfold State.freeSlot
  split <;> rfl

@[simp] theorem State.tellFate_qual (s : State) (d : Descriptor) (f : Fate) : (s.tellFate d f).qual = s.qual := by
  unfold State.tellFate
  split <;> simp

@[simp] theorem State.countGiveUp_qual (s : State) (d : Descriptor) : (s.countGiveUp d).qual = s.qual := by
  unfold State.countGiveUp
  split <;> simp

@[simp] theorem State.giveUp_qual (s : State) (d : Descriptor) : (s.giveUp d).qual = s.qual := by simp [State.giveUp]

@[simp] theorem State.yieldJob_qual (s : State) (x : Side) : (s.yieldJob x).qual = s.qual := by
  unfold State.yieldJob
  split <;> simp

@[simp] theorem State.yieldJobs_qual (s : State) : s.yieldJobs.qual = s.qual := by simp [State.yieldJobs]

@[simp] theorem State.yieldVacating_qual (s : State) (cut : Cut) : (s.yieldVacating cut).qual = s.qual := by
  rcases s.yieldVacating_cases cut with e | e <;> simp [e]

@[simp] theorem State.endJob_qual (s : State) (x : Side) (j : Job) (code : ResultCode) (q : DWord) (offset : Nat) :
    (s.endJob x j code q offset).qual = s.qual := by simp [State.endJob]

@[simp] theorem State.abortJob_qual (s : State) (x : Side) : (s.abortJob x).qual = s.qual := by
  unfold State.abortJob
  split <;> simp

@[simp] theorem State.archiveStop_qual (s : State) (byWorn : Bool) : (s.archiveStop byWorn).qual = s.qual := by
  simp [State.archiveStop, State.foldl_qual State.giveUp_qual]

/-! ## Offers and captures -/

@[simp] theorem State.accept_qual (s : State) (r : Record) (w : Option (Side × Word)) :
    (s.accept r w).qual = s.qual :=
  (apply_ite State.qual _ _ _).trans (ite_self s.qual)

@[simp] theorem State.stopIfExhausted_qual (s : State) : s.stopIfExhausted.qual = s.qual := by
  unfold State.stopIfExhausted
  split <;> simp

@[simp] theorem State.offer_qual (s : State) (r : Record) (w : Option (Side × Word)) :
    (s.offer r w).1.qual = s.qual := by
  unfold State.offer
  dsimp only
  split <;> simp

@[simp] theorem State.offerClose_qual (s : State) (r : Record) : (s.offerClose r).qual = s.qual := s.offer_qual r none

@[simp] theorem State.offerFor_qual (s : State) (r : Record) (x : Side) (slip : Word) :
    (s.offerFor r x slip).qual = s.qual := by
  unfold State.offerFor
  have h := s.offer_qual r (some (x, slip))
  split
  · next e => rwa [e] at h
  · next e => rw [e] at h; simpa using h

@[simp] theorem State.settleSlot_qual (s : State) (accepted : Bool) (i : Fin 8) (c : Capture) :
    (s.settleSlot accepted i c).qual = s.qual := by
  unfold State.settleSlot
  split <;> simp

@[simp] theorem State.endCapture_qual (s : State) (i : Fin 8) (cause : EndCause) :
    (s.endCapture i cause).qual = s.qual := by
  unfold State.endCapture
  split
  · rfl
  · split <;> simp

@[simp] theorem State.endCaptures_qual (s : State) (cause : EndCause) : (s.endCaptures cause).qual = s.qual :=
  State.foldl_qual (fun s i => s.endCapture_qual i cause) _ s

@[simp] theorem State.beginCapture_qual (s : State) (i : Fin 8) (c : Capture) :
    (s.beginCapture i c).qual = s.qual := by
  unfold State.beginCapture
  dsimp only
  split <;> simp

@[simp] theorem State.requestCapture_qual (s : State) (k : Fin 24) (e : Episode) (pre post : Nat) :
    (s.requestCapture k e pre post).qual = s.qual := by
  unfold State.requestCapture
  split
  · rfl
  · split <;> simp

@[simp] theorem State.collectFrame_qual (s : State) (f : Frame) (i : Fin 8) : (s.collectFrame f i).qual = s.qual := by
  unfold State.collectFrame
  split
  · rfl
  · split
    · dsimp only
      split <;> simp
    · rfl

@[simp] theorem State.takeFrame_qual (s : State) (f : Frame) : (s.takeFrame f).qual = s.qual :=
  State.foldl_qual (fun s i => s.collectFrame_qual f i) _ _

/-! ## Episodes -/

@[simp] theorem State.latchOnset_qual (s : State) (m : MonitorId) : (s.latchOnset m).qual = s.qual := by
  unfold State.latchOnset
  split
  · simp
  · split <;> simp

@[simp] theorem State.openEpisode_qual (s : State) (k : Fin 24) (o : Onset) : (s.openEpisode k o).qual = s.qual := by
  simp [State.openEpisode]

@[simp] theorem State.closeEpisode_qual (s : State) (k : Fin 24) (cause : CloseCause) :
    (s.closeEpisode k cause).qual = s.qual := by
  unfold State.closeEpisode
  split <;> simp

@[simp] theorem State.updateEpisode_qual (s : State) (m : MonitorId) (f : Episode → Episode) :
    (s.updateEpisode m f).qual = s.qual := by
  unfold State.updateEpisode
  split <;> rfl

@[simp] theorem State.healEpisode_qual (s : State) (m : MonitorId) : (s.healEpisode m).qual = s.qual := by
  unfold State.healEpisode
  split
  · simp
  · split <;> simp

@[simp] theorem State.boundaryClose_qual (s : State) (cause : CloseCause) : (s.boundaryClose cause).qual = s.qual :=
  (State.foldl_qual (f := fun acc m => acc.offerClose (acc.untrackedClose m cause)) (fun s _ => s.offerClose_qual _) _ _).trans
    (State.foldl_qual (fun s k => s.closeEpisode_qual k cause) _ s)

/-! ## The archive unit -/

@[simp] theorem State.writeOut_qual (s : State) (ws : List (Nat × Unit64)) : (s.writeOut ws).qual = s.qual := by
  simp [State.writeOut]

@[simp] theorem State.advance_qual (s : State) : s.advance.1.qual = s.qual := by
  unfold State.advance
  split
  · simp
  · split <;> simp

@[simp] theorem State.grantEntry_qual (s : State) (d : Descriptor) : (s.grantEntry d).qual = s.qual := by
  unfold State.grantEntry
  dsimp only
  split
  · simp
  · split <;> simp

@[simp] theorem State.grantRecord_qual (s : State) (d : Descriptor) : (s.grantRecord d).qual = s.qual := by
  unfold State.grantRecord
  dsimp only
  split <;> simp

@[simp] theorem State.commitRecord_qual (s : State) (d : Descriptor) : (s.commitRecord d).qual = s.qual := by
  simp [State.commitRecord]

@[simp] theorem State.rewriteRecord_qual (s : State) (d : Descriptor) (array : Memory) :
    (s.rewriteRecord d array).qual = s.qual := by simp [State.rewriteRecord]

@[simp] theorem State.leaveWorn_qual (s : State) (mark : List (Nat × Unit64)) : (s.leaveWorn mark).qual = s.qual := by
  unfold State.leaveWorn
  split
  · simp
  · dsimp only
    split <;> simp

@[simp] theorem State.writeCopy_qual (s : State) (p : Preparation) (r : Stored) (h : Head) (retry : Bool) :
    (s.writeCopy p r h retry).qual = s.qual := by simp [State.writeCopy]

@[simp] theorem State.carryStall_qual (s : State) : s.carryStall.qual = s.qual := by
  unfold State.carryStall
  dsimp only
  split <;> simp

@[simp] theorem State.vacate_qual (s : State) (p : Preparation) : (s.vacate p).qual = s.qual := by
  unfold State.vacate
  dsimp only
  split <;> simp

@[simp] theorem State.writeScanStop_qual (s : State) (h : Head) : (s.writeScanStop h).qual = s.qual := by
  simp [State.writeScanStop]

@[simp] theorem State.suspendWrites_qual (s : State) (cut : Cut) : (s.suspendWrites cut).qual = s.qual := by
  simp [State.suspendWrites]

@[simp] theorem State.resumeWrites_qual (s : State) : s.resumeWrites.qual = s.qual := by
  unfold State.resumeWrites
  split
  · rfl
  · split <;> simp

/-! ## Read jobs -/

@[simp] theorem State.copyRecord_qual (s : State) (x : Side) (j : Job) (r : Stored) :
    (s.copyRecord x j r).qual = s.qual := by simp [State.copyRecord]

@[simp] theorem State.examine_qual (s : State) (x : Side) (j : Job) (r : Stored) : (s.examine x j r).qual = s.qual := by
  unfold State.examine
  split
  · split <;> simp
  · simp

@[simp] theorem State.endOfWalk_qual (s : State) (x : Side) (j : Job) (endOffset : Nat) :
    (s.endOfWalk x j endOffset).qual = s.qual := by
  unfold State.endOfWalk
  split
  · simp
  · split <;> simp

@[simp] theorem State.segmentGone_qual (s : State) (x : Side) (j : Job) : (s.segmentGone x j).qual = s.qual := by
  unfold State.segmentGone
  split <;> simp

@[simp] theorem State.stepJob_qual (s : State) (x : Side) (j : Job) : (s.stepJob x j).qual = s.qual := by
  unfold State.stepJob
  split
  · simp
  · split <;> simp

@[simp] theorem State.startRead_qual (s : State) (x : Side) (slip : Word) (r : ReadRequest) :
    (s.startRead x slip r).qual = s.qual := by
  unfold State.startRead
  split
  · simp
  · split <;> simp

/-! ## Ports, adoption of a layout and start-up -/

@[simp] theorem State.takeFree_qual (s : State) (x : Side) (slip : Word) (rest : List Word) :
    (s.takeFree x slip rest).qual = s.qual := by
  unfold State.takeFree
  dsimp only
  split <;> simp

@[simp] theorem State.performAdopt_qual (s : State) : s.performAdopt.qual = s.qual := by
  unfold State.performAdopt
  dsimp only
  split <;> simp [State.adoptLayout]

@[simp] theorem State.endReadFrame_qual (s : State) (x : Side) : (s.endReadFrame x).qual = s.qual := by
  simp [State.endReadFrame]

@[simp] theorem State.endAdopt_qual (s : State) : s.endAdopt.qual = s.qual := by
  unfold State.endAdopt
  dsimp only
  split <;> simp

@[simp] theorem State.offerSummaries_qual (s : State) (rs : List Record) : (s.offerSummaries rs).qual = s.qual := by
  unfold State.offerSummaries
  split
  · exact State.foldl_qual (f := fun acc r => (acc.offer r none).1) (fun s r => s.offer_qual r none) _ s
  · rfl

@[simp] theorem State.beginStartUp_qual (s : State) : s.beginStartUp.qual = s.qual := by
  unfold State.beginStartUp
  split
  · rfl
  · split <;> simp

/-! ## Resets -/

@[simp] theorem State.resetBlocks_qual (s : State) (k : ResetKind) (array : Memory) :
    (s.resetBlocks k array).qual = .reset := rfl

@[simp] theorem State.restartReset_qual (s : State) (array : Memory) : (s.restartReset array).qual = .reset := by
  simp [State.restartReset]

end Sys2Proof.Machine
end

section
/-! One monitor under the operations of the qualification unit and of the ride boundaries: each keeps the settings in
the ranges of R2 and the counter in the range that R6 gives the state. -/

namespace Sys2Proof.Machine

/-! ## What soundness looks at -/

/-- Soundness looks at the settings, the state and the counter alone. -/
theorem Monitor.Sound.of_same {v w : Monitor} (h : v.Sound) (adopted : w.adopted = v.adopted)
    (staged : w.staged = v.staged) (state : w.state = v.state) (counter : w.counter = v.counter) : w.Sound := by
  simpa only [Monitor.Sound, adopted, staged, state, counter] using h

/-- A monitor whose staged settings are in range and whose other fields are sound once nothing is staged: what a
boundary or a heal leaves before staged settings are adopted (R25). -/
structure Monitor.Adoptable (v : Monitor) : Prop where
  sound : ({ v with staged := none } : Monitor).Sound
  staged : ∀ g, v.staged = some g → g.InRange
  unfailed : v.state ≠ .failed

theorem Monitor.Sound.adoptable {v : Monitor} (h : v.Sound) (hf : v.state ≠ .failed) : v.Adoptable :=
  ⟨⟨h.1, h.2.1, nofun⟩, fun g e => (h.2.2 g e).1, hf⟩

theorem Monitor.Sound.inRange {v : Monitor} (h : v.Sound) {g : Settings} (ha : v.adopted = some g) : g.InRange :=
  (h.1 g ha).1

theorem Monitor.Sound.allows {v : Monitor} (h : v.Sound) {g : Settings} (ha : v.adopted = some g) :
    v.state.allows g v.counter := (h.1 g ha).2

/-- A monitor in service has adopted settings (R5, R6). -/
theorem Monitor.Sound.adopted_of_enabled {v : Monitor} (h : v.Sound) (he : v.state ≠ .disabled) :
    ∃ g, v.adopted = some g :=
  Option.ne_none_iff_exists'.mp fun hn => he (h.2.1 hn).1

/-- Nothing is staged on a monitor that is not FAILED (R23). -/
theorem Monitor.Sound.staged_none {v : Monitor} (h : v.Sound) (hf : v.state ≠ .failed) : v.staged = none :=
  Option.eq_none_iff_forall_ne_some.mpr fun g e => hf (h.2.2 g e).2

/-- With adopted settings in range and nothing staged, the counter decides. -/
theorem Monitor.sound_of_adopted {v : Monitor} {g : Settings} (hg : g.InRange) (ha : v.adopted = some g)
    (hs : v.staged = none) (hc : v.state.allows g v.counter) : v.Sound := by
  refine ⟨fun g' e => ?_, fun e => ?_, fun g' e => ?_⟩
  · obtain rfl : g = g' := by simpa [ha] using e
    exact ⟨hg, hc⟩
  · simp [ha] at e
  · simp [hs] at e

/-! ## Counters (R6, R10, R13, R24) -/

theorem clampCounter_mem {g : Settings} (c : Int) :
    -(g.passLimit : Int) ≤ clampCounter g c ∧ clampCounter g c ≤ g.failLimit := by
  unfold clampCounter
  split
  · omega
  · split <;> omega

/-- A clamped counter stays on its side of 0 (R24). -/
theorem clampCounter_side {g : Settings} (hf : 1 ≤ g.failLimit) (hp : 1 ≤ g.passLimit) (c : Int) :
    (c ≤ 0 → clampCounter g c ≤ 0) ∧ (0 < c → 0 < clampCounter g c) := by
  unfold clampCounter
  split
  · omega
  · split <;> omega

/-- A fail step raises the counter, to the fail limit at most (R10). -/
theorem failCounter_bounds {g : Settings} (hg : g.InRange) {c : Int} (hc : c ≤ g.failLimit) :
    c ≤ failCounter g c ∧ failCounter g c ≤ g.failLimit := by
  have := hg.failStep
  have := hg.failLimit
  simp only [failCounter]
  split <;> split <;> omega

/-- A pass step lowers the counter, to minus the pass limit at least (R13). -/
theorem passCounter_bounds {g : Settings} (hg : g.InRange) {c : Int} (hc : -(g.passLimit : Int) ≤ c) :
    -(g.passLimit : Int) ≤ passCounter g c ∧ passCounter g c ≤ c := by
  have := hg.passStep
  unfold passCounter
  split <;> omega

/-- In every state the counter lies between minus the pass limit and the fail limit (R6). -/
theorem MonitorState.allows_bounds {st : MonitorState} {g : Settings} {c : Int} (h : st.allows g c) :
    -(g.passLimit : Int) ≤ c ∧ c ≤ g.failLimit := by
  cases st <;> simp only [MonitorState.allows] at h <;> omega

/-- MATURING above 0 and PASSED at or below allow every counter between the limits. -/
theorem unfailedState_allows {g : Settings} {c : Int} (hl : -(g.passLimit : Int) ≤ c) (hh : c ≤ g.failLimit) :
    (unfailedState c).allows g c := by
  unfold unfailedState
  split <;> simp only [MonitorState.allows] <;> omega

/-! ## Verdicts -/

/-- A monitor is FAILED after an applied FAIL if it was or the counter has reached the fail limit (R10). -/
theorem Monitor.afterFail_state (v : Monitor) (g : Settings) (riding : Bool) :
    (v.afterFail g riding).state =
      if v.state = .failed ∨ failCounter g v.counter = g.failLimit then .failed
      else unfailedState (failCounter g v.counter) := by
  by_cases hf : v.state = .failed <;> simp [Monitor.afterFail, Monitor.isOnset, hf]

/-- An applied FAIL (R10). -/
theorem Monitor.Sound.afterFail {v : Monitor} (h : v.Sound) {g : Settings} (ha : v.adopted = some g) (riding : Bool) :
    (v.afterFail g riding).Sound := by
  have hg := h.inRange ha
  have hv := h.allows ha
  obtain ⟨hl, hh⟩ := MonitorState.allows_bounds hv
  obtain ⟨hup, htop⟩ := failCounter_bounds hg hh
  refine ⟨fun g' e => ?_, fun e => ?_, fun g' e => ?_⟩
  · obtain rfl : g = g' := by simpa [Monitor.afterFail, ha] using e
    refine ⟨hg, ?_⟩
    show (v.afterFail g riding).state.allows g (failCounter g v.counter)
    rw [Monitor.afterFail_state]
    split
    · next hf =>
      have := hg.passLimit
      have low : -(g.passLimit : Int) + 1 ≤ failCounter g v.counter := by
        rcases hf with hf | hf
        · simp only [hf, MonitorState.allows] at hv
          omega
        · omega
      exact ⟨low, htop⟩
    · exact unfailedState_allows (by omega) htop
  · simp [Monitor.afterFail, ha] at e
  · obtain ⟨hr, hs⟩ := h.2.2 g' e
    exact ⟨hr, by simp [Monitor.afterFail, hs]⟩

/-- An applied PASS that brings no heal (R13). -/
theorem Monitor.Sound.afterPass {v : Monitor} (h : v.Sound) {g : Settings} (ha : v.adopted = some g)
    (hn : v.isHeal g = false) (riding : Bool) : (v.afterPass g riding).Sound := by
  have hg := h.inRange ha
  have hv := h.allows ha
  obtain ⟨hl, hh⟩ := MonitorState.allows_bounds hv
  obtain ⟨hlow, hdown⟩ := passCounter_bounds hg hl
  refine ⟨fun g' e => ?_, fun e => ?_, fun g' e => ?_⟩
  · obtain rfl : g = g' := by simpa [Monitor.afterPass, ha] using e
    refine ⟨hg, ?_⟩
    by_cases hf : v.state = .failed
    · have hne : passCounter g v.counter ≠ -(g.passLimit : Int) := by simpa [Monitor.isHeal, hf] using hn
      simp only [Monitor.afterPass, hf, if_true, MonitorState.allows]
      omega
    · simpa [Monitor.afterPass, hf] using unfailedState_allows hlow (by omega)
  · simp [Monitor.afterPass, ha] at e
  · obtain ⟨hr, hs⟩ := h.2.2 g' e
    exact ⟨hr, by simp [Monitor.afterPass, hs]⟩

/-! ## Adoption (R23 to R25) -/

/-- Adoption of settings in range by a monitor that is not FAILED (R24). -/
theorem Monitor.Sound.adopt {v : Monitor} (h : v.Sound) (hf : v.state ≠ .failed) {g : Settings} (hg : g.InRange) :
    (v.adopt g).Sound := by
  have hs := h.staged_none hf
  have side := clampCounter_side hg.failLimit.1 hg.passLimit.1 v.counter
  have mem := clampCounter_mem (g := g) v.counter
  unfold Monitor.adopt
  split
  · have kept : ∀ st, v.state = st → st ≠ .disabled → ∃ g₀, st.allows g₀ v.counter := by
      rintro _ rfl hd
      obtain ⟨g₀, ha⟩ := h.adopted_of_enabled hd
      exact ⟨g₀, h.allows ha⟩
    split
    · exact Monitor.sound_of_adopted hg rfl hs rfl
    · exact Monitor.sound_of_adopted hg rfl hs rfl
    · next e =>
      obtain ⟨g₀, hc⟩ := kept _ e nofun
      refine Monitor.sound_of_adopted hg rfl hs ?_
      simp only [e, MonitorState.allows] at hc ⊢
      omega
    · next e =>
      obtain ⟨g₀, hc⟩ := kept _ e nofun
      refine Monitor.sound_of_adopted hg rfl hs ?_
      simp only [e, MonitorState.allows] at hc ⊢
      omega
    · next e => exact absurd e hf
  · exact Monitor.sound_of_adopted hg rfl hs rfl

/-- Staged settings are adopted where the monitor is no longer FAILED (R25). -/
theorem Monitor.Adoptable.adoptStaged {v : Monitor} (h : v.Adoptable) : v.adoptStaged.Sound := by
  unfold Monitor.adoptStaged
  split
  · next g e => exact h.sound.adopt h.unfailed (h.staged g e)
  · next e => exact h.sound.of_same rfl e rfl rfl

/-- A monitor put into a state that its counter allows, out of FAILED (R14, R69, R73). -/
theorem Monitor.Sound.adoptable_of {v w : Monitor} (h : v.Sound) (adopted : w.adopted = v.adopted)
    (staged : w.staged = v.staged) (hf : w.state ≠ .failed)
    (hc : ∀ g, v.adopted = some g → w.state.allows g w.counter)
    (hn : v.adopted = none → w.state = .disabled ∧ w.counter = 0) : w.Adoptable where
  sound := ⟨fun g e => ⟨h.inRange (adopted ▸ e), hc g (adopted ▸ e)⟩, fun e => hn (adopted ▸ e), nofun⟩
  staged g e := (h.2.2 g (staged ▸ e)).1
  unfailed := hf

/-- A heal (R13, R14). -/
theorem Monitor.Sound.heal {v : Monitor} (h : v.Sound) {g : Settings} (ha : v.adopted = some g)
    (hh : v.isHeal g = true) (riding : Bool) : (v.afterPass g riding).heal.Sound := by
  simp only [Monitor.isHeal, Bool.and_eq_true, decide_eq_true_eq] at hh
  obtain ⟨hf, hc⟩ := hh
  refine (h.adoptable_of (w := { v.afterPass g riding with state := .passed, untracked := false }) rfl rfl nofun
    (fun g' e => ?_) fun e => ?_).adoptStaged
  · obtain rfl : g = g' := by simpa [ha] using e
    simp only [Monitor.afterPass, hc, MonitorState.allows]
    omega
  · simp [ha] at e

/-! ## The ride boundaries (R69, R72, R73) -/

theorem Monitor.openReset_adoptable {v : Monitor} (h : v.Sound) : v.openReset.Adoptable := by
  unfold Monitor.openReset
  dsimp only
  split
  · next he =>
    obtain ⟨g, ha⟩ := h.adopted_of_enabled (by simpa [Monitor.enabled] using he)
    exact h.adoptable_of rfl rfl nofun (fun _ _ => rfl) fun e => by simp [ha] at e
  · next he =>
    have hd : v.state = .disabled := by simpa [Monitor.enabled] using he
    exact (h.of_same (w := { v with held := 0, ran := false, failedThisRide := false }) rfl rfl rfl rfl).adoptable
      (by simp [hd])

theorem Monitor.closeReset_adoptable {v : Monitor} (h : v.Sound) : v.closeReset.Adoptable := by
  unfold Monitor.closeReset
  split
  · next he =>
    obtain ⟨g, ha⟩ := h.adopted_of_enabled (by simpa [Monitor.enabled] using he)
    exact h.adoptable_of rfl rfl nofun (fun _ _ => rfl) fun e => by simp [ha] at e
  · next he =>
    have hd : v.state = .disabled := by simpa [Monitor.enabled] using he
    exact h.adoptable_of rfl rfl (by simp [hd]) (fun g _ => by simp [hd, MonitorState.allows]) fun _ => ⟨hd, rfl⟩

/-- The update of the persistent fields touches nothing else (R72). -/
theorem Monitor.closeUpdate_frame (v : Monitor) :
    ∃ fails clean confirmed,
      v.closeUpdate = { v with failRides := fails, cleanRides := clean, confirmed := confirmed } := by
  unfold Monitor.closeUpdate
  split
  · exact ⟨_, _, _, rfl⟩
  · dsimp only
    split
    · exact ⟨_, _, _, rfl⟩
    · split
      · exact ⟨_, _, _, rfl⟩
      · split
        · split
          · split <;> exact ⟨_, _, _, rfl⟩
          · exact ⟨_, _, _, rfl⟩
        · exact ⟨_, _, _, rfl⟩

theorem Monitor.Sound.closeUpdate {v : Monitor} (h : v.Sound) : v.closeUpdate.Sound := by
  obtain ⟨fails, clean, confirmed, e⟩ := v.closeUpdate_frame
  rw [e]
  exact h.of_same rfl rfl rfl rfl

/-! ## Reset (R5, R16) -/

/-- Exactly the internal monitors have fixed settings (R5, R16). -/
theorem fixedSettings_eq_none {m : MonitorId} : fixedSettings m = none ↔ m.val < 96 := by
  revert m
  decide

/-- Class and frame counts of an internal monitor (R16). -/
theorem fixedSettings_internal {m : MonitorId} (h : 96 ≤ m.val) :
    fixedSettings m = some (.internal
      (if m.val = 96 then .drivability else if m.val = 97 then .safety else .information)
      (if m.val = 96 ∨ m.val = 97 then 4 else if m.val = 100 then 2 else 0)
      (if m.val = 96 ∨ m.val = 97 then 2 else if m.val = 100 then 3 else 0)) := by
  revert m
  decide

/-- The fixed settings of the internal monitors lie in the ranges of R2 (R16). -/
theorem fixedSettings_inRange {m : MonitorId} {g : Settings} (h : fixedSettings m = some g) : g.InRange := by
  have internal : ∀ cls pre post, pre ≤ 4 → post ≤ 7 → (Settings.internal cls pre post).InRange :=
    fun cls pre post hpre hpost => by constructor <;> simp [Settings.internal, hpre, hpost]
  have hm : 96 ≤ m.val := Nat.le_of_not_lt fun hlt => by
    rw [fixedSettings_eq_none.mpr hlt] at h
    cases h
  rw [fixedSettings_internal hm, Option.some.injEq] at h
  rw [← h]
  refine internal _ _ _ ?_ ?_
  · split
    · decide
    · split <;> decide
  · split
    · decide
    · split <;> decide

theorem Monitor.reset_sound (m : MonitorId) : (Monitor.reset m).Sound := by
  refine ⟨fun g e => ⟨fixedSettings_inRange e, ?_⟩, fun e => ?_, nofun⟩
  · simp only [Monitor.reset]
    split <;> rfl
  · simp [Monitor.reset, fixedSettings_eq_none.mp e]

end Sys2Proof.Machine
end

section
/-! Plan entries: which are refused, and what an accepted one does (R21 to R23). -/

namespace Sys2Proof.Machine

/-! ## The settings of an entry (R21) -/

/-- The fields of an entry lie in the ranges of R2 and its monitor belongs to the side (R21). -/
structure PlanEntry.Legal (e : PlanEntry) (x : Side) : Prop where
  owned : (x = .engine ∧ e.monitor < 48) ∨ (x = .brake ∧ 48 ≤ e.monitor ∧ e.monitor < 96)
  flags : e.enable ≤ 1 ∧ e.jump ≤ 1
  cls : e.cls ≤ 3
  failStep : 1 ≤ e.failStep ∧ e.failStep ≤ 64
  passStep : 1 ≤ e.passStep ∧ e.passStep ≤ 64
  failLimit : 1 ≤ e.failLimit ∧ e.failLimit ≤ 64
  passLimit : 1 ≤ e.passLimit ∧ e.passLimit ≤ 64
  confirmRides : 1 ≤ e.confirmRides ∧ e.confirmRides ≤ 3
  agingRides : 1 ≤ e.agingRides ∧ e.agingRides ≤ 40
  frames : e.preFrames ≤ 4 ∧ e.postFrames ≤ 7
  suppressor : e.suppressor = 255 ∨ e.suppressor ≤ 101

/-- The settings record that an entry spells, with this suppressor (R192). -/
def PlanEntry.record (e : PlanEntry) (sup : Option MonitorId) : Settings :=
  { enable := e.enable == 1, cls := classOfCode e.cls, failStep := e.failStep, passStep := e.passStep,
    failLimit := e.failLimit, passLimit := e.passLimit, jump := e.jump == 1, suppressor := sup,
    confirmRides := e.confirmRides, agingRides := e.agingRides, preFrames := e.preFrames,
    postFrames := e.postFrames }

/-- The suppressor byte of an entry spells this suppressor: 255 spells none (R192). -/
structure PlanEntry.Spells (e : PlanEntry) (sup : Option MonitorId) : Prop where
  none_iff : sup = none ↔ e.suppressor = 255
  val_eq : ∀ p, sup = some p → p.val = e.suppressor

theorem within_iff {low high n : Nat} : within low high n = true ↔ low ≤ n ∧ n ≤ high := by simp [within]

theorem MonitorId.origin_eq_engine {m : MonitorId} : MonitorId.origin m = .engine ↔ m.val < 48 := by
  revert m
  decide

theorem MonitorId.origin_eq_brake {m : MonitorId} : MonitorId.origin m = .brake ↔ 48 ≤ m.val ∧ m.val < 96 := by
  revert m
  decide

theorem ownsMonitor_iff {x : Side} {m : MonitorId} :
    ownsMonitor x m = true ↔ (x = .engine ∧ m.val < 48) ∨ (x = .brake ∧ 48 ≤ m.val ∧ m.val < 96) := by
  simp only [ownsMonitor, decide_eq_true_eq]
  cases x with
  | engine => simp only [sideOrigin, MonitorId.origin_eq_engine, true_and, reduceCtorEq, false_and, or_false]
  | brake => simp only [sideOrigin, MonitorId.origin_eq_brake, true_and, reduceCtorEq, false_and, false_or]

/-- An entry that passes R21 gives its monitor the record it spells. -/
theorem PlanEntry.settings_of_legal {e : PlanEntry} {x : Side} (h : e.Legal x) {m : MonitorId}
    (hm : m.val = e.monitor) {sup : Option MonitorId} (hs : e.Spells sup) : e.settings x = some (m, e.record sup) := by
  have hlt : e.monitor < 102 := hm ▸ m.isLt
  have hmk : (⟨e.monitor, hlt⟩ : MonitorId) = m := Fin.ext hm.symm
  have hown : ownsMonitor x m = true := ownsMonitor_iff.mpr (by simpa [hm] using h.owned)
  obtain ⟨-, flags, cls, failStep, passStep, failLimit, passLimit, confirmRides, agingRides, frames, supp⟩ := h
  rw [PlanEntry.settings, dif_pos hlt]
  simp only [hmk, hown, within_iff.mpr, flags, cls, failStep, passStep, failLimit, passLimit, confirmRides, agingRides,
    frames, Nat.zero_le, and_self, Bool.and_self, if_true]
  cases sup with
  | none => rw [if_pos (hs.none_iff.mp rfl)]; rfl
  | some p =>
    have hp := hs.val_eq p rfl
    have hne : e.suppressor ≠ 255 := by omega
    have hpk : (⟨e.suppressor, hp ▸ p.isLt⟩ : MonitorId) = p := Fin.ext hp.symm
    rw [if_neg hne, dif_pos (hp ▸ p.isLt), hpk]
    rfl

/-- An entry that gives settings passes R21, and they are the record it spells. -/
theorem PlanEntry.legal_of_settings {e : PlanEntry} {x : Side} {m : MonitorId} {g : Settings}
    (h : e.settings x = some (m, g)) : e.Legal x ∧ ∃ sup, g = e.record sup := by
  unfold PlanEntry.settings at h
  split at h
  · next hlt =>
    dsimp only at h
    split at h
    · next hc =>
      simp only [Bool.and_eq_true, within_iff, ownsMonitor_iff] at hc
      have legal (hsup : e.suppressor = 255 ∨ e.suppressor ≤ 101) : e.Legal x := by
        constructor <;> simp_all
      split at h
      · next h255 =>
        obtain ⟨-, rfl⟩ : _ ∧ e.record none = g := by simpa [PlanEntry.record] using h
        exact ⟨legal (.inl h255), none, rfl⟩
      · split at h
        · next hs =>
          obtain ⟨-, rfl⟩ : _ ∧ e.record (some ⟨e.suppressor, hs⟩) = g := by simpa [PlanEntry.record] using h
          exact ⟨legal (.inr (by omega)), _, rfl⟩
        · exact nomatch h
    · exact nomatch h
  · exact nomatch h

/-- An entry that does not pass R21 is refused. -/
theorem PlanEntry.settings_of_not_legal {e : PlanEntry} {x : Side} (h : ¬e.Legal x) : e.settings x = none := by
  cases hs : e.settings x with
  | none => rfl
  | some p => exact absurd (PlanEntry.legal_of_settings hs).1 h

/-- The record that a legal entry spells lies in the ranges of R2. -/
theorem PlanEntry.Legal.record_inRange {e : PlanEntry} {x : Side} (h : e.Legal x) (sup : Option MonitorId) :
    (e.record sup).InRange :=
  ⟨h.failStep, h.passStep, h.failLimit, h.passLimit, h.confirmRides, h.agingRides, h.frames.1, h.frames.2⟩

/-! ## The depth of suppression (R22) -/

/-- Monitor `j` names `p` as its suppressor, in adopted or staged settings (R22). -/
def Qualification.Names (q : Qualification) (j p : MonitorId) : Prop :=
  ∃ g, ((q.monitors.get j).adopted = some g ∨ (q.monitors.get j).staged = some g) ∧ g.suppressor = some p

theorem namesSuppressor_iff {o : Option Settings} :
    namesSuppressor o = true ↔ ∃ g p, o = some g ∧ g.suppressor = some p := by
  cases o <;> simp [namesSuppressor, Option.isSome_iff_exists]

theorem suppressedBy_iff {p : MonitorId} {o : Option Settings} :
    suppressedBy p o = true ↔ ∃ g, o = some g ∧ g.suppressor = some p := by
  cases o <;> simp [suppressedBy]

theorem Qualification.names_iff (q : Qualification) (j p : MonitorId) :
    q.Names j p ↔ suppressedBy p (q.monitors.get j).adopted = true ∨ suppressedBy p (q.monitors.get j).staged = true := by
  simp only [suppressedBy_iff, Qualification.Names, or_and_right, exists_or]

/-- A monitor names no suppressor where neither of its settings does. -/
theorem Qualification.not_names_iff (q : Qualification) (j : MonitorId) :
    (∀ p, ¬q.Names j p) ↔ namesSuppressor (q.monitors.get j).adopted = false ∧
      namesSuppressor (q.monitors.get j).staged = false := by
  simp only [← Bool.not_eq_true, namesSuppressor_iff, Qualification.Names]
  grind

theorem Qualification.not_namedByAnother_iff (q : Qualification) (m : MonitorId) :
    q.namedByAnother m = false ↔ ∀ j, ¬(j ≠ m ∧ q.Names j m) := by
  simp [Qualification.namedByAnother, mem_indices, Qualification.names_iff]

/-- The entry's suppressor breaks the rule of one level (R22). -/
def Qualification.BreaksDepth (q : Qualification) (m p : MonitorId) : Prop :=
  p = m ∨ (96 ≤ p.val ∧ p.val ≠ 100) ∨ (∃ o, q.Names p o) ∨ (∃ j, j ≠ m ∧ q.Names j m)

theorem Qualification.depthLegal_iff (q : Qualification) (m : MonitorId) (g : Settings) :
    q.depthLegal m g = true ↔ ∀ p, g.suppressor = some p → ¬q.BreaksDepth m p := by
  unfold Qualification.depthLegal
  cases hs : g.suppressor with
  | none => simp
  | some p =>
    have hid : (p.val < 96 ∨ p = supplyMonitor) ↔ ¬(96 ≤ p.val ∧ p.val ≠ 100) := by
      simp only [supplyMonitor, Fin.ext_iff]
      omega
    have names := q.not_names_iff p
    have another := q.not_namedByAnother_iff m
    simp only [Bool.and_eq_true, Bool.or_eq_true, bne_iff_ne, decide_eq_true_eq, Bool.not_eq_true', hid, another,
      Option.some.injEq, forall_eq', Qualification.BreaksDepth, not_or, not_exists, names, and_assoc]

/-! ## An entry taken -/

/-- An entry refused by R21. -/
theorem Qualification.takeEntry_of_not_legal {q : Qualification} {x : Side} {e : PlanEntry} (h : ¬e.Legal x) :
    q.takeEntry x e = (q, .refused) := by simp [Qualification.takeEntry, PlanEntry.settings_of_not_legal h]

/-- What becomes of an entry that passes R21 (R22, R23). -/
theorem Qualification.takeEntry_of_settings {q : Qualification} {x : Side} {e : PlanEntry} {m : MonitorId} {g : Settings}
    (h : e.settings x = some (m, g)) :
    q.takeEntry x e =
      if q.depthLegal m g then
        if (q.monitors.get m).state = .failed then
          ({ q with monitors := q.monitors.set m { q.monitors.get m with staged := some g } }, .staged)
        else ({ q with monitors := q.monitors.set m ((q.monitors.get m).adopt g) }, .adopted)
      else (q, .refused) := by simp [Qualification.takeEntry, h]

/-- Settles O34: by whether the entry passes R21, keeps the depth of suppression, and finds its monitor FAILED. -/
theorem planEntriesTaken : Obligations.PlanEntriesTaken := by
  intro q x e legal
  have hlegal : legal ↔ e.Legal x := by
    constructor
    · rintro ⟨own, enable, jump, cls, failStep, passStep, failLimit, passLimit, confirm, aging, pre, post, sup⟩
      refine ⟨?_, ⟨enable, jump⟩, cls, failStep, passStep, failLimit, passLimit, confirm, aging, ⟨pre, post⟩, sup⟩
      cases x with
      | engine => exact .inl ⟨rfl, own⟩
      | brake => exact .inr ⟨rfl, own⟩
    · rintro ⟨own, ⟨enable, jump⟩, cls, failStep, passStep, failLimit, passLimit, confirm, aging, ⟨pre, post⟩, sup⟩
      refine ⟨?_, enable, jump, cls, failStep, passStep, failLimit, passLimit, confirm, aging, pre, post, sup⟩
      cases x with
      | engine => simpa using own
      | brake => simpa using own
  refine ⟨fun h => Qualification.takeEntry_of_not_legal (mt hlegal.mpr h), ?_⟩
  intro m sup h hm hn hp names breaks g v
  have taken := Qualification.takeEntry_of_settings (q := q) (PlanEntry.settings_of_legal (hlegal.mp h) hm ⟨hn, hp⟩)
  have depth := q.depthLegal_iff m (e.record sup)
  refine ⟨fun ⟨p, hs, hb⟩ => ?_, fun hb hf => ?_, fun hb hf => ?_⟩
  · rw [taken, if_neg fun hd => depth.mp hd p hs hb]
  · rw [taken, if_pos (depth.mpr fun p hs hbr => hb ⟨p, hs, hbr⟩), if_pos hf]; rfl
  · rw [taken, if_pos (depth.mpr fun p hs hbr => hb ⟨p, hs, hbr⟩), if_neg hf]; rfl

end Sys2Proof.Machine
end

section
/-! Every step keeps the monitors sound (R2, R6, R23): each operation that changes the monitor table does, and every
command is a chain of such operations and of operations that leave the table. -/

namespace Sys2Proof.Machine

/-! ## Changes of the table -/

/-- The invariant speaks of the qualification unit alone. -/
theorem State.MonitorInv.of_qual {s t : State} (h : s.MonitorInv) (e : t.qual = s.qual) : t.MonitorInv := fun m => by
  simpa only [State.monitor, e] using h m

theorem State.MonitorInv.ite {c : Prop} [Decidable c] {s t : State} (h : s.MonitorInv) (k : t.MonitorInv) :
    (if c then s else t).MonitorInv := by split <;> assumption

theorem Qualification.reset_monitor (m : MonitorId) : Qualification.reset.monitors.get m = Monitor.reset m :=
  Table.get_tabulate _ m

theorem State.monitorInv_of_reset {t : State} (e : t.qual = .reset) : t.MonitorInv := fun m => by
  simpa only [State.monitor, e, Qualification.reset_monitor] using Monitor.reset_sound m

theorem State.MonitorInv.setMonitor {s : State} (h : s.MonitorInv) {m : MonitorId} {v : Monitor} (hv : v.Sound) :
    (s.setMonitor m v).MonitorInv := fun n => by
  by_cases e : n = m
  · subst e
    rwa [State.monitor_setMonitor_self]
  · rw [State.monitor_setMonitor_ne s e]
    exact h n

theorem State.MonitorInv.mapMonitors {s : State} (h : s.MonitorInv) {f : Monitor → Monitor}
    (hf : ∀ v : Monitor, v.Sound → (f v).Sound) : (s.mapMonitors f).MonitorInv := fun m => by
  rw [State.monitor_mapMonitors]
  exact hf _ (h m)

theorem State.MonitorInv.foldl {α : Type} {f : State → α → State}
    (hf : ∀ (s : State) (a : α), s.MonitorInv → (f s a).MonitorInv) :
    ∀ (l : List α) {s : State}, s.MonitorInv → (l.foldl f s).MonitorInv
  | [], _, h => h
  | a :: rest, s, h => State.MonitorInv.foldl hf rest (hf s a h)

/-! ## Verdicts -/

theorem State.MonitorInv.markUntracked {s : State} (h : s.MonitorInv) (m : MonitorId) : (s.markUntracked m).MonitorInv :=
  h.setMonitor ((h m).of_same rfl rfl rfl rfl)

theorem State.MonitorInv.evict {s : State} (h : s.MonitorInv) (k : Fin 24) : (s.evict k).MonitorInv := by
  unfold State.evict
  split
  · exact h
  · exact (h.of_qual (State.closeEpisode_qual _ _ _)).markUntracked _

/-- An onset changes no monitor but for the untracked mark (R39, R40). -/
theorem State.MonitorInv.takeOnset {s : State} (h : s.MonitorInv) (o : Onset) : (s.takeOnset o).MonitorInv := by
  unfold State.takeOnset
  split
  · exact h.of_qual (State.openEpisode_qual _ _ _)
  · split
    · exact (h.evict _).of_qual (State.openEpisode_qual _ _ _)
    · exact (h.markUntracked o.monitor).of_qual (State.offerClose_qual _ _)

theorem State.MonitorInv.applyFail {s : State} (h : s.MonitorInv) {m : MonitorId} {g : Settings}
    (ha : (s.monitor m).adopted = some g) (v : Verdict) : (s.applyFail m g v).MonitorInv := by
  have h1 := h.setMonitor (m := m) ((h m).afterFail ha s.isRiding)
  unfold State.applyFail
  dsimp only
  split
  · exact h1.of_qual (State.updateEpisode_qual _ _ _)
  · split
    · exact h1.takeOnset _
    · exact h1

theorem State.MonitorInv.applyPass {s : State} (h : s.MonitorInv) {m : MonitorId} {g : Settings}
    (ha : (s.monitor m).adopted = some g) : (s.applyPass m g).MonitorInv := by
  unfold State.applyPass
  dsimp only
  split
  · next hh =>
    -- the monitor between `afterPass` and `heal` is not sound; the table of the others is that of `s`
    have heal : ((s.setMonitor m ((s.monitor m).afterPass g s.isRiding)).healEpisode m).monitor m =
        (s.monitor m).afterPass g s.isRiding := by simp [State.monitor]
    refine fun n => ?_
    rw [heal]
    by_cases e : n = m
    · subst e
      rw [State.monitor_setMonitor_self]
      exact (h n).heal ha hh s.isRiding
    · rw [State.monitor_setMonitor_ne _ e]
      simpa [State.monitor, Table.get_set_ne _ e] using h n
  · next hh =>
    have h1 := h.setMonitor (m := m) ((h m).afterPass ha (by simpa using hh) s.isRiding)
    split
    · exact h1.of_qual (State.updateEpisode_qual _ _ _)
    · exact h1

/-- One verdict keeps every monitor sound (R7 to R15). -/
theorem State.MonitorInv.takeVerdict {s : State} (h : s.MonitorInv) (m : MonitorId) (v : Verdict) :
    (s.takeVerdict m v).MonitorInv := by
  unfold State.takeVerdict
  split
  · split
    · exact h
    · next ha =>
      split
      · exact h
      · split
        · split
          · refine State.MonitorInv.of_qual ?_ (State.updateEpisode_qual _ _ _)
            exact h.setMonitor (m := m) (v := { s.monitor m with held := satInc (s.monitor m).held })
              ((h m).of_same rfl rfl rfl rfl)
          · exact h.applyFail ha v
        · exact h.applyPass ha
  · exact h

theorem State.MonitorInv.takeRun {s : State} (h : s.MonitorInv) (m : MonitorId) (v : Verdict) :
    ∀ n : Nat, (s.takeRun m v n).MonitorInv
  | 0 => h
  | n + 1 => (h.takeVerdict m v).takeRun m v n

theorem State.MonitorInv.misuse {s : State} (h : s.MonitorInv) (x : Side) (cause : Word) :
    (s.misuse x cause).MonitorInv := by
  unfold State.misuse
  dsimp only
  split
  · refine State.MonitorInv.takeVerdict ?_ _ _
    exact h.of_qual (by simp)
  · exact h

theorem State.MonitorInv.storeFail {s : State} (h : s.MonitorInv) : s.storeFail.MonitorInv := h.takeVerdict _ _

theorem State.MonitorInv.giveStoreFails {s : State} (h : s.MonitorInv) : s.giveStoreFails.MonitorInv := by
  unfold State.giveStoreFails
  split
  · exact h
  · exact State.MonitorInv.foldl (fun s v hs => hs.takeVerdict _ _) _ (h.of_qual (by simp))

/-! ## Plan tables -/

/-- Every monitor of the unit is sound. -/
def Qualification.Sound (q : Qualification) : Prop := ∀ m, (q.monitors.get m).Sound

theorem Qualification.Sound.set {q : Qualification} (h : q.Sound) {m : MonitorId} {v : Monitor} (hv : v.Sound) :
    ({ q with monitors := q.monitors.set m v } : Qualification).Sound := fun n => by
  simp only [Table.get_set]
  split
  · exact hv
  · exact h n

/-- A plan entry stages on a FAILED monitor and adopts on another settings in range (R21, R23). -/
theorem Qualification.Sound.takeEntry {q : Qualification} (h : q.Sound) (x : Side) (e : PlanEntry) :
    (q.takeEntry x e).1.Sound := by
  cases hs : e.settings x with
  | none => rwa [Qualification.takeEntry, hs]
  | some p =>
    obtain ⟨m, g⟩ := p
    obtain ⟨legal, sup, rfl⟩ := PlanEntry.legal_of_settings hs
    have hg := legal.record_inRange sup
    rw [Qualification.takeEntry_of_settings hs]
    split
    · split
      · next hf =>
        refine h.set ⟨(h m).1, (h m).2.1, fun g' e' => ?_⟩
        obtain rfl : e.record sup = g' := Option.some.inj e'
        exact ⟨hg, hf⟩
      · next hf => exact h.set ((h m).adopt hf hg)
    · exact h

theorem Qualification.Sound.takeEntries {q : Qualification} (h : q.Sound) (x : Side) :
    ∀ es : List PlanEntry, (q.takeEntries x es).1.Sound
  | [] => h
  | e :: rest => (h.takeEntry x e).takeEntries x rest

/-! ## The ride boundaries -/

theorem State.MonitorInv.openRide {s : State} (h : s.MonitorInv) (odometer : DWord) : (s.openRide odometer).MonitorInv := by
  intro m
  have e : (s.openRide odometer).monitor m = (s.monitor m).openReset.adoptStaged := by
    simp [State.openRide, State.monitor]
  rw [e]
  exact (Monitor.openReset_adoptable (h m)).adoptStaged

theorem State.MonitorInv.closeWork {s : State} (h : s.MonitorInv) (cause : CloseCause) (ended : EndCause) :
    (s.closeWork cause ended).MonitorInv :=
  ((State.MonitorInv.of_qual h (by simp)).mapMonitors fun _ hv => hv.closeUpdate).mapMonitors fun _ hv =>
    (Monitor.closeReset_adoptable hv).adoptStaged

theorem State.MonitorInv.closeRide {s : State} (h : s.MonitorInv) (x : Side) (slip : Word) :
    (s.closeRide x slip).MonitorInv :=
  (h.closeWork .rideClose .truncatedRide).of_qual (by simp [State.closeRide])

theorem State.MonitorInv.beginRestart {s : State} (h : s.MonitorInv) : s.beginRestart.MonitorInv := by
  have riding : ∀ {t : State}, t.MonitorInv → t.restartRide.MonitorInv := fun ht =>
    (ht.closeWork .restart .truncatedRestart).of_qual (by simp [State.restartRide])
  have parked : ∀ {t : State}, t.MonitorInv → t.restartParked.MonitorInv := fun ht =>
    ht.of_qual (by simp [State.restartParked])
  refine State.MonitorInv.of_qual (s := if _ then _ else _) ?_ rfl
  split
  · exact riding (h.of_qual (by simp))
  · exact parked (h.of_qual (by simp))

/-! ## Start-up (R184, R185) -/

/-- The rebuilt table changes the persistent fields alone. -/
theorem restoreMonitors_sound (a : Archive) {t : Table 102 Monitor} (h : ∀ m, (t.get m).Sound) (m : MonitorId) :
    ((restoreMonitors a t).get m).Sound := by
  unfold restoreMonitors
  split
  · exact h m
  · rw [Table.get_tabulate]
    exact (h m).of_same rfl rfl rfl rfl

theorem reconstructRides_sound (a : Archive) (m : MonitorId) :
    ∀ (rides : List Word) {t : Table 102 Monitor}, (∀ m, (t.get m).Sound) →
      ((reconstructRides a t rides).1.get m).Sound
  | [], _, h => h m
  | ride :: rest, t, h => by
    refine reconstructRides_sound a m rest fun n => ?_
    simp only [reconstructRide, Table.get_tabulate]
    split
    · exact (h n).of_same rfl rfl rfl rfl
    · exact h n

/-! ## The outcome of a command -/

/-- Where a command ends in a next state, every monitor is sound there. -/
def EndsSound (o : Host.Outcome State Fault Refusal) : Prop := ∀ t, o = .next t → t.MonitorInv

theorem EndsSound.next {t : State} (h : t.MonitorInv) : EndsSound (.next t) := by
  rintro _ ⟨⟩
  exact h

theorem EndsSound.refused {r : Refusal} : EndsSound (.refused r) := by
  intro t e
  cases e

theorem EndsSound.finish {s : State} (h : s.MonitorInv) : EndsSound s.finish :=
  .next (h.giveStoreFails.of_qual (by simp))

/-- A command whose state at the end of its work has the qualification unit of the state before. -/
theorem EndsSound.finish_of_qual {s t : State} (h : s.MonitorInv) (e : t.qual = s.qual) : EndsSound t.finish :=
  .finish (h.of_qual e)

theorem EndsSound.decode {s : State} (h : s.MonitorInv) (k : SlipKind) {handle : State → Side → Word → State}
    (hh : ∀ (s : State) (x : Side) (slip : Word), s.MonitorInv → (handle s x slip).MonitorInv) :
    EndsSound (s.decode k handle) := by
  unfold State.decode
  split
  · exact .next h
  · split
    · exact .finish (hh _ _ _ (h.of_qual (by simp)))
    · exact .next h

theorem State.MonitorInv.endDrain {s : State} (h : s.MonitorInv) (cut : Cut) : (s.endDrain cut).MonitorInv := by
  unfold State.endDrain
  split
  · exact State.monitorInv_of_reset (by simp)
  · exact h

/-! ## Commands of the ports -/

theorem execInboundAppend_sound {s : State} (h : s.MonitorInv) (x : Side) (off : Word) :
    EndsSound (execInboundAppend x off s) := by
  unfold execInboundAppend State.reportAppend
  split
  · dsimp only
    split
    · exact .finish_of_qual h (by simp)
    · split
      · exact .finish_of_qual h (by simp)
      · exact .finish (State.MonitorInv.takeVerdict (h.of_qual (by simp)) _ _)
  · exact .finish (h.misuse x 1)

theorem execFreeAppend_sound {s : State} (h : s.MonitorInv) (x : Side) (off : Word) :
    EndsSound (execFreeAppend x off s) := by
  unfold execFreeAppend
  split
  · exact .finish_of_qual h (by simp)
  · exact .finish (h.misuse x 1)

theorem execFreeTake_sound {s : State} (h : s.MonitorInv) (x : Side) : EndsSound (execFreeTake x s) := by
  unfold execFreeTake
  split
  · split <;> exact .next (h.of_qual (by simp))
  · exact .next (h.of_qual (by simp))

theorem execReturnTake_sound {s : State} (h : s.MonitorInv) (x : Side) : EndsSound (execReturnTake x s) := by
  unfold execReturnTake
  split
  · split <;> exact .next (h.of_qual (by simp))
  · exact .next (h.of_qual (by simp))

theorem execWrongDirectionAccess_sound {s : State} (h : s.MonitorInv) (x : Side) (r : ChainRegister) :
    EndsSound (execWrongDirectionAccess x r s) := by
  unfold execWrongDirectionAccess
  dsimp only
  refine .finish (State.MonitorInv.misuse ?_ x 2)
  split
  · exact h.of_qual (by simp)
  · exact h

theorem execNoticeClear_sound {s : State} (h : s.MonitorInv) (x : Side) (value : Word) :
    EndsSound (execNoticeClear x value s) := by
  unfold execNoticeClear
  dsimp only
  split <;> exact .next (h.of_qual (by simp))

theorem execAdopt_sound {s : State} (h : s.MonitorInv) : EndsSound (execAdopt s) := by
  unfold execAdopt
  split
  · exact .next (h.of_qual rfl)
  · exact .finish_of_qual h (by simp)
  · exact .finish_of_qual h rfl
  · exact .next h

theorem execRestart_sound {s : State} (h : s.MonitorInv) (cut : Cut) : EndsSound (execRestart cut s) := by
  unfold execRestart
  split
  · exact .finish ((State.MonitorInv.beginRestart (h.of_qual (by simp))).endDrain cut)
  · exact .next h

theorem execUnassignedRegisterAccess_sound {s : State} (h : s.MonitorInv) (x : Side) (a : Word) (d : Direction) :
    EndsSound (execUnassignedRegisterAccess x a d s) := by
  unfold execUnassignedRegisterAccess
  split
  · dsimp only
    refine .finish (State.MonitorInv.misuse ?_ x 3)
    split
    · exact h.of_qual (by simp)
    · exact h
  · exact .refused

theorem State.MonitorInv.writeFrame (x : Side) :
    ∀ (data : List Word) {s : State} (a : Nat), s.MonitorInv → (s.writeFrame x a data).MonitorInv
  | [], _, _, h => h
  | w :: rest, s, a, h => by
    refine State.MonitorInv.writeFrame x rest (a + 2) ?_
    unfold State.writeFrameWord
    split
    · exact h.of_qual rfl
    · exact h
    · split
      · exact h
      · exact State.MonitorInv.misuse (h.of_qual (by simp)) x 4

theorem execExchangeMemoryWrite_sound {s : State} (h : s.MonitorInv) (x : Side) (continued : Bool) (a : Word)
    (data : List Word) : EndsSound (execExchangeMemoryWrite x continued a data s) := by
  unfold execExchangeMemoryWrite
  split
  · dsimp only
    refine .finish (State.MonitorInv.writeFrame x data _ ?_)
    split
    · exact h
    · exact h.of_qual (by simp)
  · exact .refused

theorem execStatusFieldDeferredWrite_sound {s : State} (h : s.MonitorInv) (x : Side) (edge : ReadFrameEdge) :
    EndsSound (execStatusFieldDeferredWrite x edge s) := by
  unfold execStatusFieldDeferredWrite
  split
  · dsimp only
    split <;> exact .next (h.of_qual (by simp))
  · exact .refused

/-! ## Commands of the intake unit -/

theorem State.MonitorInv.malformed {s : State} (h : s.MonitorInv) (x : Side) (slip detail cause : Word) :
    (s.malformed x slip detail cause).MonitorInv :=
  State.MonitorInv.of_qual
    (State.MonitorInv.misuse (h.of_qual (State.writeAnswer_frame s slip .badField detail 0).2.2.2.2.1) x cause)
    (State.moveToReturn_qual _ _ _)

theorem State.MonitorInv.handleVerdict {s : State} (h : s.MonitorInv) (x : Side) (slip : Word) :
    (s.handleVerdict x slip).MonitorInv := by
  unfold State.handleVerdict
  split
  · exact h.malformed _ _ _ _
  · next m v repeats _ => exact (h.takeRun m v repeats).of_qual (by simp)

theorem State.MonitorInv.handleContext {s : State} (h : s.MonitorInv) (x : Side) (slip : Word) :
    (s.handleContext x slip).MonitorInv := by
  unfold State.handleContext
  split
  · exact h.malformed _ _ _ _
  · exact h.of_qual (by simp)

/-- Handling under the adopted layout. -/
theorem State.MonitorInv.withLayout {s : State} (h : s.MonitorInv) {f : Layout → State}
    (hf : ∀ l, (f l).MonitorInv) : (s.withLayout f).MonitorInv := by
  unfold State.withLayout
  split
  · exact hf _
  · exact h

theorem State.MonitorInv.answer {s : State} (h : s.MonitorInv) (x : Side) (slip : Word) (code : ResultCode)
    (detail progress : Word) : (s.answer x slip code detail progress).MonitorInv := h.of_qual (by simp)

theorem State.MonitorInv.takePlan {s : State} (h : s.MonitorInv) (x : Side) (slip : Word) (offset count : Nat) :
    (s.takePlan x slip offset count).MonitorInv := by
  refine State.MonitorInv.answer ?_ _ _ _ _ _
  exact Qualification.Sound.takeEntries (q := s.qual) h x _

theorem State.MonitorInv.handlePlan {s : State} (h : s.MonitorInv) (x : Side) (slip : Word) :
    (s.handlePlan x slip).MonitorInv := by
  unfold State.handlePlan
  dsimp only
  split
  · exact h.answer _ _ _ _ _
  · refine h.withLayout fun l => ?_
    split
    · exact h.answer _ _ _ _ _
    · exact h.takePlan _ _ _ _

theorem State.MonitorInv.handleEpisodeList {s : State} (h : s.MonitorInv) (x : Side) (slip : Word) :
    (s.handleEpisodeList x slip).MonitorInv := by
  refine h.withLayout fun l => ?_
  split
  · exact h.answer _ _ _ _ _
  · exact h.of_qual (by simp [State.copyList])

theorem State.MonitorInv.handleRideOpen {s : State} (h : s.MonitorInv) (x : Side) (slip : Word) :
    (s.handleRideOpen x slip).MonitorInv := by
  unfold State.handleRideOpen
  split
  · exact h.answer _ _ _ _ _
  · split
    · exact h.answer _ _ _ _ _
    · exact (h.openRide _).answer _ _ _ _ _

theorem State.MonitorInv.handleRideClose {s : State} (h : s.MonitorInv) (x : Side) (slip : Word) :
    (s.handleRideClose x slip).MonitorInv := by
  unfold State.handleRideClose
  split
  · exact h.answer _ _ _ _ _
  · split
    · exact h.closeRide x slip
    · exact h.answer _ _ _ _ _

theorem State.MonitorInv.handleArchiveRead {s : State} (h : s.MonitorInv) (x : Side) (slip : Word) :
    (s.handleArchiveRead x slip).MonitorInv := by
  unfold State.handleArchiveRead
  dsimp only
  split
  · exact h.answer _ _ _ _ _
  · refine h.withLayout fun l => ?_
    split
    · exact h.answer _ _ _ _ _
    · exact h.of_qual (by simp)

theorem State.MonitorInv.handleRelease {s : State} (h : s.MonitorInv) (x : Side) (slip : Word) :
    (s.handleRelease x slip).MonitorInv := by
  unfold State.handleRelease
  split
  · exact h.answer _ _ _ _ _
  · split
    · exact h.answer _ _ _ _ _
    · split
      · exact h.answer _ _ _ _ _
      · exact h.of_qual (by simp [State.release])

/-- A wipe puts the persistent fields back and nothing else of a monitor (R4, R137). -/
theorem State.MonitorInv.wipe {s : State} (h : s.MonitorInv) (x : Side) (slip : Word) : (s.wipe x slip).MonitorInv := by
  refine State.MonitorInv.of_qual (s := s.mapMonitors Monitor.forget) ?_ (by simp [State.wipe])
  exact h.mapMonitors fun _ hv => hv.of_same rfl rfl rfl rfl

theorem State.MonitorInv.handleWipe {s : State} (h : s.MonitorInv) (x : Side) (slip : Word) :
    (s.handleWipe x slip).MonitorInv := by
  unfold State.handleWipe
  refine .ite (h.answer _ _ _ _ _) (.ite (h.answer _ _ _ _ _) (.ite (h.answer _ _ _ _ _) (.ite (h.answer _ _ _ _ _)
    (.ite (h.answer _ _ _ _ _) (.ite (h.answer _ _ _ _ _) (h.wipe x slip))))))

/-! ## Commands of the store arbiter -/

theorem execRecordWriteGrant_sound {s : State} (h : s.MonitorInv) : EndsSound (execRecordWriteGrant s) := by
  unfold execRecordWriteGrant
  split
  · split
    · exact .next h
    · exact .finish (State.MonitorInv.endDrain (h.of_qual (by simp)) _)
  · exact .next h

theorem execRecordCommit_sound {s : State} (h : s.MonitorInv) : EndsSound (execRecordCommit s) := by
  unfold execRecordCommit
  split
  · exact .next h
  · exact .finish (State.MonitorInv.endDrain (h.of_qual (by simp)) _)

theorem State.MonitorInv.wearHead {s : State} (h : s.MonitorInv) (hd : Head) (array : Memory) :
    (s.wearHead hd array).MonitorInv := by
  unfold State.wearHead
  dsimp only
  split
  · exact h.of_qual (by simp)
  · refine State.MonitorInv.of_qual (State.MonitorInv.storeFail ?_) (State.leaveWorn_qual _ _)
    exact h.of_qual (by simp)

theorem State.MonitorInv.giveUpRecord {s : State} (h : s.MonitorInv) (d : Descriptor) (array : Memory) :
    (s.giveUpRecord d array).MonitorInv := by
  refine State.MonitorInv.of_qual (State.MonitorInv.storeFail ?_) (State.tellFate_qual _ _ _)
  exact h.of_qual (by simp)

theorem State.MonitorInv.failRecord {s : State} (h : s.MonitorInv) (d : Descriptor) (array : Memory) :
    (s.failRecord d array).MonitorInv := by
  unfold State.failRecord
  split
  · exact h.of_qual (by simp)
  · exact h.wearHead _ _
  · exact h.giveUpRecord _ _
  · exact h.giveUpRecord _ _

theorem execVerifyFailure_sound {s : State} (h : s.MonitorInv) (flips : List Unit64) :
    EndsSound (execVerifyFailure flips s) := by
  unfold execVerifyFailure
  split
  · split
    · exact .next h
    · split
      · exact .next h
      · exact .finish ((h.failRecord _ _).endDrain _)
  · exact .refused

theorem execCarryWrite_sound {s : State} (h : s.MonitorInv) : EndsSound (execCarryWrite s) := by
  unfold execCarryWrite
  split
  · split
    · exact .next h
    · exact .finish_of_qual h (by simp)
  · exact .next h

theorem execCarryCommit_sound {s : State} (h : s.MonitorInv) : EndsSound (execCarryCommit s) := by
  unfold execCarryCommit
  split
  · exact .next h
  · exact .finish_of_qual h (by simp)

theorem execCarryVerifyFailure_sound {s : State} (h : s.MonitorInv) (flips : List Unit64) :
    EndsSound (execCarryVerifyFailure flips s) := by
  unfold execCarryVerifyFailure
  split
  · split
    · exact .next h
    · split
      · exact .next h
      · split
        · exact .finish (State.MonitorInv.storeFail (h.of_qual (by simp)))
        · exact .finish_of_qual h (by simp)
  · exact .refused

theorem execVacate_sound {s : State} (h : s.MonitorInv) : EndsSound (execVacate s) := by
  unfold execVacate
  split
  · split
    · exact .next h
    · split
      · exact .next h
      · exact .finish (State.MonitorInv.endDrain (h.of_qual (by simp)) _)
  · exact .next h

theorem execScanStopUnitWrite_sound {s : State} (h : s.MonitorInv) : EndsSound (execScanStopUnitWrite s) := by
  unfold execScanStopUnitWrite
  split
  · split
    · exact .next h
    · exact .finish_of_qual h (by simp)
  · exact .next h

theorem execReadJobStep_sound {s : State} (h : s.MonitorInv) : EndsSound (execReadJobStep s) := by
  unfold execReadJobStep
  split
  · split
    · exact .next h
    · split
      · exact .next h
      · exact .finish_of_qual h (by simp)
  · exact .next h

/-! ## Commands of the supply monitor, the timers and start-up -/

theorem State.MonitorInv.enterLow {s : State} (h : s.MonitorInv) (cut : Cut) : (s.enterLow cut).MonitorInv := by
  unfold State.enterLow
  dsimp only
  split
  · exact State.MonitorInv.takeVerdict (h.of_qual (by simp)) _ _
  · exact h.of_qual (by simp)

theorem execLowEntry_sound {s : State} (h : s.MonitorInv) (cut : Cut) : EndsSound (execLowEntry cut s) := by
  unfold execLowEntry
  split
  · exact .next h
  · exact .finish (h.enterLow cut)

theorem execSupplyRise_sound {s : State} (h : s.MonitorInv) : EndsSound (execSupplyRise s) := by
  unfold execSupplyRise
  split <;> exact .next h

theorem execEndOfSettling_sound {s : State} (h : s.MonitorInv) : EndsSound (execEndOfSettling s) := by
  unfold execEndOfSettling
  split
  · exact .finish (State.MonitorInv.takeVerdict (h.of_qual (by simp)) _ _)
  · exact .next h

theorem execDrainTimerExpiry_sound {s : State} (h : s.MonitorInv) (n : Nat) :
    EndsSound (execDrainTimerExpiry n s) := by
  unfold execDrainTimerExpiry
  split
  · exact .next (State.monitorInv_of_reset (by simp))
  · exact .next h

theorem execPowerOn_sound (s : State) (cut : Cut) (n : Nat) : EndsSound (execPowerOn cut n s) :=
  .next (State.monitorInv_of_reset (by simp))

theorem execSupplyReset_sound {s : State} (h : s.MonitorInv) (cut : Cut) (n : Nat) :
    EndsSound (execSupplyReset cut n s) := by
  unfold execSupplyReset
  split
  · exact .next h
  · exact .next (State.monitorInv_of_reset (by simp))

theorem execLineReset_sound {s : State} (h : s.MonitorInv) (cut : Cut) (n : Nat) (released : Bool) :
    EndsSound (execLineReset cut n released s) := by
  unfold execLineReset
  split
  · exact .next (h.of_qual (by simp))
  · exact .next (State.monitorInv_of_reset (by simp))

theorem execResetInputReleased_sound {s : State} (h : s.MonitorInv) : EndsSound (execResetInputReleased s) := by
  unfold execResetInputReleased
  split
  · exact .next (h.of_qual (by simp))
  · exact .next h

theorem execSupplyReaches280V_sound {s : State} (h : s.MonitorInv) (fell : Bool) :
    EndsSound (execSupplyReaches280V fell s) := by
  unfold execSupplyReaches280V
  split
  · dsimp only
    split
    · exact .next (State.monitorInv_of_reset (by simp))
    · exact .next (h.of_qual (by simp))
  · exact .next h

theorem execClearingComplete_sound {s : State} (h : s.MonitorInv) : EndsSound (execClearingComplete s) := by
  unfold execClearingComplete
  split <;> exact .next h

theorem execStartUpEnd_sound {s : State} (h : s.MonitorInv) : EndsSound (execStartUpEnd s) := by
  unfold execStartUpEnd
  split
  · refine .finish (State.MonitorInv.of_qual (s := s.takeScan _ _) ?_
      ((State.endAdopt_qual _).trans (State.offerSummaries_qual _ _)))
    exact fun m => reconstructRides_sound _ m _ (restoreMonitors_sound _ h)
  · exact .next h

theorem execCaptureTimerExpiry_sound {s : State} (h : s.MonitorInv) (i : Fin 8) :
    EndsSound (execCaptureTimerExpiry i s) := by
  unfold execCaptureTimerExpiry
  split
  · exact .next h
  · split
    · exact .finish_of_qual h (by simp)
    · exact .next h

theorem execSilenceTimerExpiry_sound {s : State} (h : s.MonitorInv) (x : Side) :
    EndsSound (execSilenceTimerExpiry x s) := by
  unfold execSilenceTimerExpiry
  split
  · refine .finish (State.MonitorInv.takeVerdict ?_ _ _)
    exact h.of_qual rfl
  · exact .next h

/-! ## Every command -/

theorem exec_sound {s : State} (h : s.MonitorInv) (c : Instr) : EndsSound (exec c s) := by
  cases c with
  | inboundAppend x off => exact execInboundAppend_sound h x off
  | freeAppend x off => exact execFreeAppend_sound h x off
  | freeTake x => exact execFreeTake_sound h x
  | returnTake x => exact execReturnTake_sound h x
  | wrongDirectionAccess x r => exact execWrongDirectionAccess_sound h x r
  | noticeClear x value => exact execNoticeClear_sound h x value
  | noticeMaskWrite x value => exact .next (h.of_qual rfl)
  | adopt => exact execAdopt_sound h
  | restart cut => exact execRestart_sound h cut
  | unassignedRegisterAccess x a d => exact execUnassignedRegisterAccess_sound h x a d
  | exchangeMemoryWrite x continued a data => exact execExchangeMemoryWrite_sound h x continued a data
  | statusFieldDeferredWrite x edge => exact execStatusFieldDeferredWrite_sound h x edge
  | verdict => exact .decode h _ fun _ x slip hs => hs.handleVerdict x slip
  | context => exact .decode h _ fun _ x slip hs => hs.handleContext x slip
  | plan => exact .decode h _ fun _ x slip hs => hs.handlePlan x slip
  | episodeList => exact .decode h _ fun _ x slip hs => hs.handleEpisodeList x slip
  | rideOpen => exact .decode h _ fun _ x slip hs => hs.handleRideOpen x slip
  | rideClose => exact .decode h _ fun _ x slip hs => hs.handleRideClose x slip
  | archiveRead => exact .decode h _ fun _ x slip hs => hs.handleArchiveRead x slip
  | releasePinned => exact .decode h _ fun _ x slip hs => hs.handleRelease x slip
  | archiveWipe => exact .decode h _ fun _ x slip hs => hs.handleWipe x slip
  | unknownKind => exact .decode h _ fun _ x slip hs => hs.malformed x slip _ _
  | captureTimerExpiry i => exact execCaptureTimerExpiry_sound h i
  | silenceTimerExpiry x => exact execSilenceTimerExpiry_sound h x
  | rideClockTick => exact .next (h.of_qual (by simp))
  | recordWriteGrant => exact execRecordWriteGrant_sound h
  | recordCommit => exact execRecordCommit_sound h
  | verifyFailure flips => exact execVerifyFailure_sound h flips
  | carryWrite => exact execCarryWrite_sound h
  | carryCommit => exact execCarryCommit_sound h
  | carryVerifyFailure flips => exact execCarryVerifyFailure_sound h flips
  | vacate => exact execVacate_sound h
  | scanStopUnitWrite => exact execScanStopUnitWrite_sound h
  | readJobStep => exact execReadJobStep_sound h
  | lowEntry cut => exact execLowEntry_sound h cut
  | supplyRise => exact execSupplyRise_sound h
  | endOfSettling => exact execEndOfSettling_sound h
  | drainTimerExpiry n => exact execDrainTimerExpiry_sound h n
  | powerOn cut n => exact execPowerOn_sound s cut n
  | supplyReset cut n => exact execSupplyReset_sound h cut n
  | lineReset cut n released => exact execLineReset_sound h cut n released
  | clearingComplete => exact execClearingComplete_sound h
  | startUpEnd => exact execStartUpEnd_sound h
  | resetInputReleased => exact execResetInputReleased_sound h
  | supplyReaches280V fell => exact execSupplyReaches280V_sound h fell

/-- Settles O6: the idle step keeps the state, and every other step is a command executed on a state with the same
monitors. -/
theorem stepsKeepMonitors : Obligations.StepsKeepMonitors := by
  intro s t h e
  unfold step at e
  split at e
  · exact EndsSound.next h t e
  · exact exec_sound (h.of_qual (by simp)) _ t e

end Sys2Proof.Machine
end

section
/-! Verdicts and settings, rule by rule (R7 to R15, R24, R25, R72). -/

namespace Sys2Proof.Machine

/-! ## Adoption and the ride close (R24, R25, R72) -/

theorem Monitor.adoptStaged_none {v : Monitor} (h : v.staged = none) : v.adoptStaged = v := by
  simp [Monitor.adoptStaged, h]

theorem Monitor.adoptStaged_some {v : Monitor} {g : Settings} (h : v.staged = some g) :
    v.adoptStaged = ({ v with staged := none } : Monitor).adopt g := by simp [Monitor.adoptStaged, h]

/-- The table of R24, by the state before. -/
theorem Monitor.adopt_table (v : Monitor) (g : Settings) :
    (g.enable = false → v.adopt g = { v with adopted := some g, state := .disabled, counter := 0 }) ∧
    (g.enable = true → v.state = .disabled ∨ v.state = .notRun →
      v.adopt g = { v with adopted := some g, state := .notRun, counter := 0 }) ∧
    (g.enable = true → v.state = .passed ∨ v.state = .maturing →
      v.adopt g = { v with adopted := some g, counter := clampCounter g v.counter }) := by
  refine ⟨fun he => by simp [Monitor.adopt, he], fun he hs => ?_, fun he hs => ?_⟩
  · rcases hs with hs | hs <;> simp [Monitor.adopt, he, hs]
  · rcases hs with hs | hs <;> simp [Monitor.adopt, he, hs]

/-- The cases of R72 for a monitor in service. -/
theorem Monitor.closeUpdate_enabled {v : Monitor} {g : Settings} (ha : v.adopted = some g) (he : v.state ≠ .disabled) :
    v.closeUpdate =
      if v.failedThisRide then
        { v with
          failRides := satInc v.failRides, cleanRides := 0
          confirmed := v.confirmed || decide (g.confirmRides ≤ (satInc v.failRides).toNat) }
      else if v.ran then
        if v.confirmed then
          if g.agingRides ≤ (satInc v.cleanRides).toNat then
            { v with failRides := 0, cleanRides := satInc v.cleanRides, confirmed := false }
          else { v with cleanRides := satInc v.cleanRides }
        else { v with failRides := 0, cleanRides := satInc v.cleanRides }
      else v := by simp [Monitor.closeUpdate, ha, Monitor.enabled, he]

theorem Monitor.closeUpdate_disabled {v : Monitor} (hd : v.state = .disabled) : v.closeUpdate = v := by
  unfold Monitor.closeUpdate
  split
  · rfl
  · simp [Monitor.enabled, hd]

/-- Settles O35: the table of R24, the clamping, and the cases of R72 each from its own equation. -/
theorem adoptionAndRideCloseOfMonitors : Obligations.AdoptionAndRideCloseOfMonitors := by
  refine ⟨fun v => ⟨Monitor.adoptStaged_none, fun _ => Monitor.adoptStaged_some⟩, fun v g => ?_, fun v g ha => ?_⟩
  · obtain ⟨off, rest, counting⟩ := v.adopt_table g
    exact ⟨off, rest, counting, fun hf hp => clampCounter_side hf hp v.counter⟩
  · intro fails clean
    refine ⟨Monitor.closeUpdate_disabled, fun he hf => ?_, fun he hf hr hc => ?_, fun he hf hr hc => ?_,
      fun he hf hr => ?_⟩
    · simp only [Monitor.closeUpdate_enabled ha he, hf, if_true]; rfl
    · simp only [Monitor.closeUpdate_enabled ha he, hf, hr, hc, Bool.false_eq_true, if_true, if_false]; rfl
    · simp only [Monitor.closeUpdate_enabled ha he, hf, hr, hc, Bool.false_eq_true, if_true, if_false]; rfl
    · simp only [Monitor.closeUpdate_enabled ha he, hf, hr, Bool.false_eq_true, if_false]

/-! ## Which verdicts are applied (R7 to R9) -/

/-- A verdict outside READY (R7). -/
theorem State.takeVerdict_discarded {s : State} (hp : s.startUp.part ≠ .ready) (m : MonitorId) (v : Verdict) :
    s.takeVerdict m v = s := by simp [State.takeVerdict, State.isReady, hp]

/-- A verdict to a DISABLED monitor (R8). -/
theorem State.takeVerdict_ignored {s : State} (hp : s.startUp.part = .ready) {m : MonitorId}
    (h : (s.monitor m).adopted = none ∨ (s.monitor m).state = .disabled) (v : Verdict) :
    s.takeVerdict m v = s.ignoreVerdict m := by
  cases ha : (s.monitor m).adopted with
  | none => simp [State.takeVerdict, State.isReady, hp, ha]
  | some g => simp [State.takeVerdict, State.isReady, hp, ha, h.resolve_left (by simp [ha])]

/-- A verdict to a monitor in service of a READY part: held, or applied (R9). -/
theorem State.takeVerdict_enabled {s : State} (hp : s.startUp.part = .ready) {m : MonitorId} {g : Settings}
    (ha : (s.monitor m).adopted = some g) (he : (s.monitor m).state ≠ .disabled) (v : Verdict) :
    s.takeVerdict m v =
      if v.kind = .pass then s.applyPass m g else if s.suppressed g then s.holdVerdict m else s.applyFail m g v := by
  simp only [State.takeVerdict, State.isReady, hp, ha, he, decide_true, if_true, if_false]
  cases v.kind <;> simp

theorem State.suppressed_iff (s : State) (g : Settings) :
    s.suppressed g = true ↔ ∃ p, g.suppressor = some p ∧ (s.monitor p).state = .failed := by
  unfold State.suppressed
  split <;> simp_all

/-- Settles O46: the three verdicts that are not applied, each by its rule. -/
theorem verdictsNotApplied : Obligations.VerdictsNotApplied := by
  intro s m v
  refine ⟨fun hp => State.takeVerdict_discarded hp m v, fun hp h => State.takeVerdict_ignored hp h v, ?_⟩
  intro g p hp ha he hk hs hf
  rw [State.takeVerdict_enabled hp ha he, hk, if_neg nofun, if_pos ((s.suppressed_iff g).mpr ⟨p, hs, hf⟩)]
  rfl

/-! ## An applied FAIL (R10 to R12, R15, R34) -/

/-- The episode of a monitor is the one entry of the table that names it (R28). -/
theorem Episodes.entryOf_eq_none {p : Episodes} {m : MonitorId} (h : ∀ k e, p.table.get k = some e → e.monitor ≠ m) :
    p.entryOf m = none := by
  rw [Episodes.entryOf, List.find?_eq_none]
  intro k _
  cases hk : p.table.get k with
  | none => simp
  | some e => simpa using h k e hk

theorem Episodes.entryOf_eq_some {p : Episodes} {m : MonitorId} {k : Fin 24} {e : Episode}
    (hk : p.table.get k = some e) (hm : e.monitor = m)
    (only : ∀ j f, p.table.get j = some f → f.monitor = m → j = k) : p.entryOf m = some k := by
  cases hf : p.entryOf m with
  | none =>
    rw [Episodes.entryOf, List.find?_eq_none] at hf
    have := hf k (mem_indices k)
    simp [hk, hm] at this
  | some j =>
    have hj := List.find?_some hf
    cases he : p.table.get j with
    | none => simp [he] at hj
    | some f => rw [only j f he (by simpa [he] using hj)]

theorem State.updateEpisode_none {s : State} {m : MonitorId} (h : s.episodes.entryOf m = none) (f : Episode → Episode) :
    s.updateEpisode m f = s := by simp only [State.updateEpisode, h]

theorem State.updateEpisode_some {s : State} {m : MonitorId} {k : Fin 24} {e : Episode} (h : s.episodes.entryOf m = some k)
    (hk : s.episodes.table.get k = some e) (f : Episode → Episode) :
    s.updateEpisode m f =
      { s with episodes := { s.episodes with table := s.episodes.table.set k (some (f e)) } } := by
  simp only [State.updateEpisode, h, hk, Option.map_some]

/-- A FAIL of a monitor that is not FAILED, at the fail limit: the onset (R10, R11). -/
theorem Monitor.afterFail_onset {v : Monitor} {g : Settings} (hs : v.state ≠ .failed)
    (hc : failCounter g v.counter = g.failLimit) (riding : Bool) :
    v.afterFail g riding = { v with
      counter := failCounter g v.counter, ran := v.ran || riding, state := .failed
      failedThisRide := v.failedThisRide || riding } := by
  simp [Monitor.afterFail, Monitor.isOnset, hs, hc]

/-- A FAIL of a FAILED monitor (R12). -/
theorem Monitor.afterFail_failed {v : Monitor} (hs : v.state = .failed) (g : Settings) (riding : Bool) :
    v.afterFail g riding = { v with counter := failCounter g v.counter, ran := v.ran || riding } := by
  simp [Monitor.afterFail, Monitor.isOnset, hs]

/-- A FAIL below the fail limit: MATURING or PASSED (R10). -/
theorem Monitor.afterFail_below {v : Monitor} {g : Settings} (hs : v.state ≠ .failed)
    (hc : failCounter g v.counter ≠ g.failLimit) (riding : Bool) :
    v.afterFail g riding = { v with
      counter := failCounter g v.counter, ran := v.ran || riding, state := unfailedState (failCounter g v.counter) } := by
  simp [Monitor.afterFail, Monitor.isOnset, hs, hc]

theorem Monitor.isOnset_iff {v : Monitor} {g : Settings} :
    v.isOnset g = true ↔ failCounter g v.counter = g.failLimit ∧ v.state ≠ .failed := by simp [Monitor.isOnset]

theorem State.applyFail_onset {s : State} {m : MonitorId} {g : Settings} (hs : (s.monitor m).state ≠ .failed)
    (hc : failCounter g (s.monitor m).counter = g.failLimit) (v : Verdict) :
    s.applyFail m g v = (s.setMonitor m { s.monitor m with
      counter := failCounter g (s.monitor m).counter, ran := (s.monitor m).ran || s.isRiding, state := .failed
      failedThisRide := (s.monitor m).failedThisRide || s.isRiding }).takeOnset
        ⟨m, g.cls, v.value, v.time, g.failLimit, g.preFrames, g.postFrames⟩ := by
  rw [State.applyFail, if_neg hs, if_pos (Monitor.isOnset_iff.mpr ⟨hc, hs⟩), Monitor.afterFail_onset hs hc]

theorem State.applyFail_failed {s : State} {m : MonitorId} (hs : (s.monitor m).state = .failed) (g : Settings)
    (v : Verdict) :
    s.applyFail m g v = (s.setMonitor m { s.monitor m with
      counter := failCounter g (s.monitor m).counter, ran := (s.monitor m).ran || s.isRiding }).updateEpisode m
        (fun e => e.occurrence v.value s.rides.clock (failCounter g (s.monitor m).counter)) := by
  rw [State.applyFail, if_pos hs, Monitor.afterFail_failed hs]

theorem State.applyFail_below {s : State} {m : MonitorId} {g : Settings} (hs : (s.monitor m).state ≠ .failed)
    (hc : failCounter g (s.monitor m).counter ≠ g.failLimit) (v : Verdict) :
    s.applyFail m g v = s.setMonitor m { s.monitor m with
      counter := failCounter g (s.monitor m).counter, ran := (s.monitor m).ran || s.isRiding
      state := unfailedState (failCounter g (s.monitor m).counter) } := by
  rw [State.applyFail, if_neg hs, if_neg fun h => hc (Monitor.isOnset_iff.mp h).1, Monitor.afterFail_below hs hc]

/-- Settles O44: an applied FAIL by the state before it and the counter after it; then R28 from the entry of the monitor. -/
theorem failsApplied : Obligations.FailsApplied := by
  refine ⟨?_, fun s m f => ⟨fun h => ?_, fun k e hk hm only => ?_⟩⟩
  · intro s m g value time hp ha he hsup v riding lifted c stepped t
    have unsuppressed : ¬s.suppressed g = true := fun h =>
      have ⟨p, hs, hf⟩ := (s.suppressed_iff g).mp h
      hsup p hs hf
    have applied : t = s.applyFail m g ⟨.fail, value, time⟩ := by
      rw [show t = _ from State.takeVerdict_enabled hp ha he _, if_neg nofun, if_neg unsuppressed]
    refine ⟨fun hs hc => ?_, fun hs => ?_, fun hs hc => ?_⟩
    · rw [applied]
      exact State.applyFail_onset hs hc _
    · rw [applied]
      exact State.applyFail_failed hs g _
    · rw [applied]
      exact State.applyFail_below hs hc _
  · exact State.updateEpisode_none (Episodes.entryOf_eq_none h) f
  · have entry := Episodes.entryOf_eq_some hk hm only
    exact ⟨entry, State.updateEpisode_some entry hk f⟩

/-! ## An applied PASS (R13, R14, R37, R43) -/

theorem Monitor.isHeal_iff {v : Monitor} {g : Settings} :
    v.isHeal g = true ↔ v.state = .failed ∧ passCounter g v.counter = -(g.passLimit : Int) := by simp [Monitor.isHeal]

/-- A PASS of a FAILED monitor at minus the pass limit: the heal (R13, R14). -/
theorem State.applyPass_heal {s : State} {m : MonitorId} {g : Settings} (h : (s.monitor m).isHeal g = true) :
    s.applyPass m g =
      ((s.setMonitor m ((s.monitor m).afterPass g s.isRiding)).healEpisode m).setMonitor m
        ((s.monitor m).afterPass g s.isRiding).heal := by
  have kept : ((s.setMonitor m ((s.monitor m).afterPass g s.isRiding)).healEpisode m).monitor m =
      (s.monitor m).afterPass g s.isRiding := by simp [State.monitor]
  rw [State.applyPass, if_pos h]
  dsimp only
  rw [kept]

/-- A PASS of a FAILED monitor above minus the pass limit changes its episode's state (R37). -/
theorem State.applyPass_failed {s : State} {m : MonitorId} {g : Settings} (hs : (s.monitor m).state = .failed)
    (hc : passCounter g (s.monitor m).counter ≠ -(g.passLimit : Int)) :
    s.applyPass m g = (s.setMonitor m { s.monitor m with
      counter := passCounter g (s.monitor m).counter, ran := (s.monitor m).ran || s.isRiding }).updateEpisode m
        (fun e => { e with state := episodeStateOf (passCounter g (s.monitor m).counter) }) := by
  rw [State.applyPass, if_neg fun h => hc (Monitor.isHeal_iff.mp h).2, if_pos hs]
  simp only [Monitor.afterPass, hs, if_true]

/-- A PASS of a monitor that is not FAILED (R13). -/
theorem State.applyPass_unfailed {s : State} {m : MonitorId} (g : Settings) (hs : (s.monitor m).state ≠ .failed) :
    s.applyPass m g = s.setMonitor m { s.monitor m with
      counter := passCounter g (s.monitor m).counter, ran := (s.monitor m).ran || s.isRiding
      state := unfailedState (passCounter g (s.monitor m).counter) } := by
  rw [State.applyPass, if_neg fun h => hs (Monitor.isHeal_iff.mp h).1, if_neg hs]
  simp only [Monitor.afterPass, hs, if_false]

/-- What an offer does to the archive unit depends on the archive unit and the slots alone, while numbers are left
(R146). -/
theorem State.offer_archive_congr {s t : State} (ha : t.archive = s.archive) (hp : t.snaps = s.snaps)
    (h : s.offersLeft 1) (r : Record) (w : Option (Side × Word)) :
    (t.offer r w).1.archive = (s.offer r w).1.archive := by
  have ht : t.offersLeft 1 := by simpa only [State.offersLeft, ha] using h
  have accepted : (t.accept r w).archive = (s.accept r w).archive := by
    have of : ∀ u : State, (u.accept r w).archive = _ := fun u => (apply_ite State.archive _ _ _).trans (ite_self _)
    rw [of t, of s, ha, hp]
    rfl
  cases hr : s.archive.accepts r with
  | true =>
    rw [State.offer_accepted w h hr, State.offer_accepted w ht (ha ▸ hr)]
    exact accepted
  | false =>
    rw [State.offer_dropped w h hr, State.offer_dropped w ht (ha ▸ hr)]
    simp only [State.countDrop, State.latchBoth_frame, ha]

/-- The close of an open episode empties its entry and offers its CLOSE record (R42). -/
theorem State.closeEpisode_some {s : State} {k : Fin 24} {e : Episode} (hk : s.episodes.table.get k = some e)
    (cause : CloseCause) :
    (s.closeEpisode k cause).episodes.table.get k = none ∧
    (s.closeEpisode k cause).archive = (s.offerClose (s.closeRecord e cause)).archive := by
  simp only [State.closeEpisode, hk, Table.get_set_self, and_self]

/-- The heal of a tracked monitor closes its episode (R43). -/
theorem State.healEpisode_some {s : State} {m : MonitorId} {k : Fin 24} (h : s.episodes.entryOf m = some k) :
    s.healEpisode m = s.closeEpisode k .healed := by simp only [State.healEpisode, h]

/-- The heal of a monitor without an open episode offers the untracked CLOSE record if it is untracked (R43). -/
theorem State.healEpisode_none {s : State} {m : MonitorId} (h : s.episodes.entryOf m = none) :
    s.healEpisode m = if (s.monitor m).untracked then s.offerClose (s.untrackedClose m .healed) else s := by
  simp only [State.healEpisode, h]

/-- Settles O45: an applied PASS by the state before it and the counter after it; the heal by the monitor's episode. -/
theorem passesApplied : Obligations.PassesApplied := by
  intro s m g value time hp ha he v low c stepped t origin
  have applied : t = s.applyPass m g := by
    rw [show t = _ from State.takeVerdict_enabled hp ha he _, if_pos rfl]
  refine ⟨fun hs hc left => ?_, fun hs hc => ?_, fun hs => ?_⟩
  · have after : v.afterPass g s.isRiding = stepped := by
      simp only [Monitor.afterPass, hs, if_true]
      rw [← hs]
      rfl
    have healed := State.applyPass_heal (Monitor.isHeal_iff.mpr ⟨hs, hc⟩)
    rw [after, ← applied] at healed
    rw [healed]
    have offered : ∀ r, ((s.setMonitor m stepped).offer r none).1.archive = (s.offer r none).1.archive :=
      fun r => State.offer_archive_congr (s := s) (t := s.setMonitor m stepped) rfl rfl left r none
    refine ⟨State.monitor_setMonitor_self _ _ _, fun k e hm hk => ?_, fun hm hu => ?_, fun hm hu => ?_⟩
    · obtain ⟨emptied, closed⟩ := State.closeEpisode_some (s := s.setMonitor m stepped) hk .healed
      have tracked := State.healEpisode_some (s := s.setMonitor m stepped) hm
      rw [← tracked] at emptied closed
      exact ⟨emptied, closed.trans (offered _)⟩
    · have untracked := State.healEpisode_none (s := s.setMonitor m stepped) hm
      rw [State.monitor_setMonitor_self, if_pos hu] at untracked
      have record : (s.setMonitor m stepped).untrackedClose m .healed =
          { body := .close .healed true 0 0 0 0 0, cls := g.cls, ride := s.rides.number, monitor := some m
            origin := origin m, episode := 0 } := by
        simp only [State.untrackedClose, State.monitor_setMonitor_self, Monitor.cls, stepped, v, ha]
        rfl
      exact (congrArg State.archive untracked).trans (record ▸ offered _)
    · have unmarked := State.healEpisode_none (s := s.setMonitor m stepped) hm
      rw [State.monitor_setMonitor_self, if_neg (show ¬v.untracked = true by simp [hu])] at unmarked
      have kept := congrArg State.archive unmarked
      exact kept
  · rw [applied]
    exact State.applyPass_failed hs hc
  · rw [applied]
    exact State.applyPass_unfailed g hs

end Sys2Proof.Machine
end

section
/-! The reset state: the values of the blocks, and the invariants that it meets (R5, R16, R28, R49, R51, R64, R96,
R109, R174). -/

namespace Sys2Proof.Machine

/-! ## The invariants -/

theorem reset_memoryInv : State.reset.MemoryInv := ⟨rfl, rfl, rfl⟩

theorem reset_partInv : State.reset.PartInv := by
  constructor <;> simp [State.reset, Rides.reset, State.takesServed]

theorem reset_monitorInv : State.reset.MonitorInv := State.monitorInv_of_reset rfl

theorem reset_monitor (m : MonitorId) : State.reset.monitor m = Monitor.reset m := Qualification.reset_monitor m

/-- No episode is open after a reset (R28). -/
theorem reset_episode (k : Fin 24) : State.reset.episodes.table.get k = none := Table.get_fill none k

theorem reset_episodeInv : State.reset.EpisodeInv where
  single j _ _ _ he := by simp [reset_episode] at he
  failed _ _ _ he := by simp [reset_episode] at he
  untracked m hu := by simp [reset_monitor, Monitor.reset] at hu

/-- No ownership table and no chain after a reset (R96, R107). -/
theorem reset_chainsOf (x : Side) : State.reset.chainsOf x = .reset := Sides.get_both _ x

theorem reset_returnReadyInv : State.reset.ReturnReadyInv := fun x hx => by simp [reset_chainsOf, Chains.reset] at hx

theorem reset_statusInv : State.reset.StatusInv := nofun

theorem reset_queueInv : State.reset.QueueInv where
  places := Nat.zero_le _
  common := Nat.zero_le _
  ring := Nat.zero_le _
  quiet := rfl
  stopped := nofun

theorem reset_lockoutInv : State.reset.LockoutInv := nofun

theorem reset_chainInv : State.reset.ChainInv where
  valid := nofun
  sound := nofun
  gone _ := ⟨rfl, rfl, rfl⟩

/-- Settles O3: the values as the blocks' reset records give them, and the invariants one by one. -/
theorem resetValuesAndInvariants : Obligations.ResetValuesAndInvariants := by
  unfold Obligations.ResetValuesAndInvariants
  intro s
  have port : ∀ x, s.ports.get x = .reset := fun x => Sides.get_both _ x
  refine ⟨fun x => by simp [port, Port.reset], rfl, fun x => ⟨reset_chainsOf x, Sides.get_both _ x⟩, rfl, rfl,
    fun m => ?_, fun m hm => ?_, fun m hm => ?_, fun x => Sides.get_both _ x, rfl, reset_episode, rfl, rfl,
    fun i => Table.get_fill none i, rfl, rfl, rfl, rfl, fun x => Sides.get_both _ x, rfl, rfl, rfl, rfl, rfl, rfl,
    rfl, rfl, rfl, rfl, reset_memoryInv, reset_partInv, reset_monitorInv, reset_episodeInv, reset_returnReadyInv,
    reset_statusInv, reset_queueInv, reset_lockoutInv, reset_chainInv⟩
  · rw [reset_monitor]
    exact ⟨rfl, rfl, rfl, rfl, rfl, rfl, rfl, rfl, rfl, rfl⟩
  · rw [reset_monitor]
    exact fixedSettings_eq_none.mpr hm
  · rw [reset_monitor]
    exact ⟨_, fixedSettings_internal hm, rfl, rfl, rfl, rfl, rfl, rfl, rfl, rfl, rfl, rfl, rfl, rfl⟩

end Sys2Proof.Machine
end
